-- ==== Sys2Proof/Word.lean ====
section
/-! DEFINITION. The word types of the block (spec 00_scope.md R8, R10; 10_state.md R21): every value is unsigned. -/

namespace Sys2Proof

/-- An 8-bit value (u8): a register, a timer, a byte of memory, an immediate `nn`. -/
abbrev Byte := BitVec 8

/-- A 16-bit value (u16): an instruction word, `I`, `pc`, a stack entry. -/
abbrev Word := BitVec 16

/-- A 12-bit value (u12): the address field `nnn`. -/
abbrev Addr := BitVec 12

/-- A register index, 0 to 15. A 4-bit field always names a register (R21), so the bound is in the type. -/
abbrev Reg := Fin 16

/-- `VF`, register 15 (R22). -/
abbrev Reg.vf : Reg := 15

/-- `V0`, register 0. -/
abbrev Reg.v0 : Reg := 0

end Sys2Proof
end

