-- ==== Sys2Proof/Syntax.lean ====
section
/-! DEFINITION. The 34 operations, one constructor for each row of spec/opcode_table.json (30_encoding.md R78), in the table's
order. Operands are those of R10 and R75: registers `x`, `y`, immediate `nn`, address `nnn`, row count `n`. A bit that the
decoder does not examine (R79) is no operand. -/

namespace Sys2Proof

inductive Instr where
  /-- `clear-display` (R141) -/
  | clearDisplay
  /-- `return` (R101) -/
  | ret
  /-- `jump NNN` (R102) -/
  | jump (nnn : Addr)
  /-- `call NNN` (R103) -/
  | call (nnn : Addr)
  /-- `skip-eq-imm Vx,NN` (R104) -/
  | skipEqImm (x : Reg) (nn : Byte)
  /-- `skip-ne-imm Vx,NN` (R105) -/
  | skipNeImm (x : Reg) (nn : Byte)
  /-- `skip-eq-reg Vx,Vy` (R106) -/
  | skipEqReg (x y : Reg)
  /-- `set-imm Vx,NN` (R121) -/
  | setImm (x : Reg) (nn : Byte)
  /-- `add-imm Vx,NN` (R122) -/
  | addImm (x : Reg) (nn : Byte)
  /-- `set-reg Vx,Vy` (R123) -/
  | setReg (x y : Reg)
  /-- `or Vx,Vy` (R124) -/
  | orReg (x y : Reg)
  /-- `and Vx,Vy` (R125) -/
  | andReg (x y : Reg)
  /-- `xor Vx,Vy` (R126) -/
  | xorReg (x y : Reg)
  /-- `add-reg Vx,Vy` (R127) -/
  | addReg (x y : Reg)
  /-- `sub Vx,Vy` (R128) -/
  | sub (x y : Reg)
  /-- `shift-right Vx` (R130) -/
  | shiftRight (x : Reg)
  /-- `sub-reverse Vx,Vy` (R129) -/
  | subReverse (x y : Reg)
  /-- `shift-left Vx` (R131) -/
  | shiftLeft (x : Reg)
  /-- `skip-ne-reg Vx,Vy` (R107) -/
  | skipNeReg (x y : Reg)
  /-- `set-index NNN` (R180) -/
  | setIndex (nnn : Addr)
  /-- `jump-offset NNN` (R108) -/
  | jumpOffset (nnn : Addr)
  /-- `random-and Vx,NN` (R132) -/
  | randomAnd (x : Reg) (nn : Byte)
  /-- `draw Vx,Vy,N` (R142); `n` is a count of rows, well formed from 0 to 15 -/
  | draw (x y : Reg) (n : Nat)
  /-- `skip-key-pressed Vx` (R161) -/
  | skipKeyPressed (x : Reg)
  /-- `skip-key-not-pressed Vx` (R162) -/
  | skipKeyNotPressed (x : Reg)
  /-- `get-delay Vx` (R164) -/
  | getDelay (x : Reg)
  /-- `wait-key Vx` (R163) -/
  | waitKey (x : Reg)
  /-- `set-delay Vx` (R165) -/
  | setDelay (x : Reg)
  /-- `set-sound Vx` (R166) -/
  | setSound (x : Reg)
  /-- `add-index Vx` (R181) -/
  | addIndex (x : Reg)
  /-- `font-char Vx` (R182) -/
  | fontChar (x : Reg)
  /-- `bcd Vx` (R183) -/
  | bcd (x : Reg)
  /-- `store-regs Vx` (R184) -/
  | storeRegs (x : Reg)
  /-- `load-regs Vx` (R185) -/
  | loadRegs (x : Reg)
  deriving DecidableEq, Repr

end Sys2Proof
end

