-- ==== Sys2Proof/WellFormed.lean ====
section
/-! DEFINITION. Well-formed instructions: those that some word encodes. Registers and immediates are in range by their types
(R21, R76); the one check left is the row count of `draw`, "a 4-bit row count, 0..15" (R76). -/

namespace Sys2Proof

/-- Some word encodes the instruction (R75, R76). -/
def Instr.wellFormed : Instr → Bool
  | .draw _ _ n => decide (n ≤ 15)
  | .clearDisplay | .ret | .jump _ | .call _ | .skipEqImm _ _ | .skipNeImm _ _ | .skipEqReg _ _
  | .setImm _ _ | .addImm _ _ | .setReg _ _ | .orReg _ _ | .andReg _ _ | .xorReg _ _ | .addReg _ _
  | .sub _ _ | .shiftRight _ | .subReverse _ _ | .shiftLeft _ | .skipNeReg _ _ | .setIndex _
  | .jumpOffset _ | .randomAnd _ _ | .skipKeyPressed _ | .skipKeyNotPressed _ | .getDelay _
  | .waitKey _ | .setDelay _ | .setSound _ | .addIndex _ | .fontChar _ | .bcd _ | .storeRegs _
  | .loadRegs _ => true

end Sys2Proof
end

