-- ==== Sys2Proof/Decode.lean ====
section
/-! DEFINITION. The decoder and the encoder (spec 30_encoding.md R70 to R82): fields, the decode map, its rejections by name,
the encoder, and each operation's row of spec/opcode_table.json as a mask and a match. -/

namespace Sys2Proof

/-- Why the decoder gives no instruction. -/
inductive DecodeError where
  /-- A word whose primary nibble and selector match no operation (R80). -/
  | illegalWord (w : Word)
  /-- Fewer than the two bytes of an instruction word (R70). The fetch never gives this. -/
  | truncated
  deriving DecidableEq, Repr

/-! ## Fields (R75) -/

/-- `op = w[15:12]`, the primary family. -/
def opField (w : Word) : BitVec 4 := w.extractLsb' 12 4

/-- `x = w[11:8]`. -/
def xField (w : Word) : Reg := (w.extractLsb' 8 4).toFin

/-- `y = w[7:4]`. -/
def yField (w : Word) : Reg := (w.extractLsb' 4 4).toFin

/-- `n = w[3:0]`, as a count. -/
def nField (w : Word) : Nat := (w.extractLsb' 0 4).toNat

/-- `nn = w[7:0]`. -/
def nnField (w : Word) : Byte := w.extractLsb' 0 8

/-- `nnn = w[11:0]`. -/
def nnnField (w : Word) : Addr := w.extractLsb' 0 12

/-! ## Decoding (R77, R78, R82) -/

/-- Family 0x0: the selector is the low byte, `w[11:8]` is not examined (R77, R79). -/
def decodeFamily0 (w : Word) : Except DecodeError Instr :=
  match (nnField w).toNat with
  | 0xE0 => .ok .clearDisplay
  | 0xEE => .ok .ret
  | _ => .error (.illegalWord w)

/-- Family 0x8: the selector is the low nibble (R77). -/
def decodeFamily8 (w : Word) : Except DecodeError Instr :=
  match nField w with
  | 0x0 => .ok (.setReg (xField w) (yField w))
  | 0x1 => .ok (.orReg (xField w) (yField w))
  | 0x2 => .ok (.andReg (xField w) (yField w))
  | 0x3 => .ok (.xorReg (xField w) (yField w))
  | 0x4 => .ok (.addReg (xField w) (yField w))
  | 0x5 => .ok (.sub (xField w) (yField w))
  | 0x6 => .ok (.shiftRight (xField w))
  | 0x7 => .ok (.subReverse (xField w) (yField w))
  | 0xE => .ok (.shiftLeft (xField w))
  | _ => .error (.illegalWord w)

/-- Family 0xE: the selector is the low byte (R77). -/
def decodeFamilyE (w : Word) : Except DecodeError Instr :=
  match (nnField w).toNat with
  | 0x9E => .ok (.skipKeyPressed (xField w))
  | 0xA1 => .ok (.skipKeyNotPressed (xField w))
  | _ => .error (.illegalWord w)

/-- Family 0xF: the selector is the low byte (R77). -/
def decodeFamilyF (w : Word) : Except DecodeError Instr :=
  match (nnField w).toNat with
  | 0x07 => .ok (.getDelay (xField w))
  | 0x0A => .ok (.waitKey (xField w))
  | 0x15 => .ok (.setDelay (xField w))
  | 0x18 => .ok (.setSound (xField w))
  | 0x1E => .ok (.addIndex (xField w))
  | 0x29 => .ok (.fontChar (xField w))
  | 0x33 => .ok (.bcd (xField w))
  | 0x55 => .ok (.storeRegs (xField w))
  | 0x65 => .ok (.loadRegs (xField w))
  | _ => .error (.illegalWord w)

/-- `Decode(w)` (R82), total on all words. -/
def decode (w : Word) : Except DecodeError Instr :=
  match (opField w).toNat with
  | 0x0 => decodeFamily0 w
  | 0x1 => .ok (.jump (nnnField w))
  | 0x2 => .ok (.call (nnnField w))
  | 0x3 => .ok (.skipEqImm (xField w) (nnField w))
  | 0x4 => .ok (.skipNeImm (xField w) (nnField w))
  | 0x5 => .ok (.skipEqReg (xField w) (yField w))
  | 0x6 => .ok (.setImm (xField w) (nnField w))
  | 0x7 => .ok (.addImm (xField w) (nnField w))
  | 0x8 => decodeFamily8 w
  | 0x9 => .ok (.skipNeReg (xField w) (yField w))
  | 0xA => .ok (.setIndex (nnnField w))
  | 0xB => .ok (.jumpOffset (nnnField w))
  | 0xC => .ok (.randomAnd (xField w) (nnField w))
  | 0xD => .ok (.draw (xField w) (yField w) (nField w))
  | 0xE => decodeFamilyE w
  | 0xF => decodeFamilyF w
  | _ => .error (.illegalWord w)

/-- The word of two bytes, the byte at the lower address first: big-endian (R55, R70). -/
def wordOfBytes (hi lo : Byte) : Word := hi ++ lo

/-- The byte at the lower address of a word, bits 15:8 (R55). -/
def hiByte (w : Word) : Byte := w.extractLsb' 8 8

/-- The byte at the higher address of a word, bits 7:0 (R55). -/
def loByte (w : Word) : Byte := w.extractLsb' 0 8

/-- Decode the instruction at the head of a list of bytes, with the bytes after it. -/
def decodeBytes : List Byte → Except DecodeError (Instr × List Byte)
  | hi :: lo :: rest => (decode (wordOfBytes hi lo)).map fun i => (i, rest)
  | [_] | [] => .error .truncated

/-- The host's question: the instruction of the opcode-table word `w`, laid out in memory as the block stores it (R55). Every
instruction is one word, so the bits above `nbits` up to 16 are 0 and no row is longer than 16 bits (R70). -/
def decodeTableWord (nbits w : Nat) : Option Instr :=
  let word : Word := BitVec.ofNat 16 (w % 2 ^ nbits)
  match decodeBytes [hiByte word, loByte word] with
  | .ok (i, _) => some i
  | .error _ => none

/-! ## Encoding (R71, R78): bits the decoder does not examine (R79) are written as 0 -/

/-- The 4-bit field that names a register. -/
def regBits (x : Reg) : BitVec 4 := BitVec.ofFin x

/-- Format `XY` and `XYN`: four nibbles. -/
def packXYN (op : BitVec 4) (x y : Reg) (n : Nat) : Word :=
  op ++ regBits x ++ regBits y ++ BitVec.ofNat 4 n

/-- Formats `XNN`, `X` and `O`: a nibble, a register nibble and a low byte. -/
def packXNN (op : BitVec 4) (x : Reg) (nn : Byte) : Word := op ++ regBits x ++ nn

/-- Format `NNN`: a nibble and a 12-bit address. -/
def packNNN (op : BitVec 4) (nnn : Addr) : Word := op ++ nnn

/-- The word of an instruction. -/
def encode : Instr → Word
  | .clearDisplay => packXNN 0x0 0 0xE0
  | .ret => packXNN 0x0 0 0xEE
  | .jump nnn => packNNN 0x1 nnn
  | .call nnn => packNNN 0x2 nnn
  | .skipEqImm x nn => packXNN 0x3 x nn
  | .skipNeImm x nn => packXNN 0x4 x nn
  | .skipEqReg x y => packXYN 0x5 x y 0
  | .setImm x nn => packXNN 0x6 x nn
  | .addImm x nn => packXNN 0x7 x nn
  | .setReg x y => packXYN 0x8 x y 0x0
  | .orReg x y => packXYN 0x8 x y 0x1
  | .andReg x y => packXYN 0x8 x y 0x2
  | .xorReg x y => packXYN 0x8 x y 0x3
  | .addReg x y => packXYN 0x8 x y 0x4
  | .sub x y => packXYN 0x8 x y 0x5
  | .shiftRight x => packXYN 0x8 x 0 0x6
  | .subReverse x y => packXYN 0x8 x y 0x7
  | .shiftLeft x => packXYN 0x8 x 0 0xE
  | .skipNeReg x y => packXYN 0x9 x y 0
  | .setIndex nnn => packNNN 0xA nnn
  | .jumpOffset nnn => packNNN 0xB nnn
  | .randomAnd x nn => packXNN 0xC x nn
  | .draw x y n => packXYN 0xD x y n
  | .skipKeyPressed x => packXNN 0xE x 0x9E
  | .skipKeyNotPressed x => packXNN 0xE x 0xA1
  | .getDelay x => packXNN 0xF x 0x07
  | .waitKey x => packXNN 0xF x 0x0A
  | .setDelay x => packXNN 0xF x 0x15
  | .setSound x => packXNN 0xF x 0x18
  | .addIndex x => packXNN 0xF x 0x1E
  | .fontChar x => packXNN 0xF x 0x29
  | .bcd x => packXNN 0xF x 0x33
  | .storeRegs x => packXNN 0xF x 0x55
  | .loadRegs x => packXNN 0xF x 0x65

/-! ## The rows of spec/opcode_table.json, copied from its "mask" and "match" and the "ignored" bits of R79 -/

/-- The "mask" of the instruction's row: the bits the decoder examines to choose the operation. -/
def Instr.rowMask : Instr → Word
  | .clearDisplay | .ret => 0xF0FF
  | .setReg _ _ | .orReg _ _ | .andReg _ _ | .xorReg _ _ | .addReg _ _ | .sub _ _ | .shiftRight _
  | .subReverse _ _ | .shiftLeft _ => 0xF00F
  | .skipKeyPressed _ | .skipKeyNotPressed _ | .getDelay _ | .waitKey _ | .setDelay _ | .setSound _
  | .addIndex _ | .fontChar _ | .bcd _ | .storeRegs _ | .loadRegs _ => 0xF0FF
  | .jump _ | .call _ | .skipEqImm _ _ | .skipNeImm _ _ | .skipEqReg _ _ | .setImm _ _ | .addImm _ _
  | .skipNeReg _ _ | .setIndex _ | .jumpOffset _ | .randomAnd _ _ | .draw _ _ _ => 0xF000

/-- The "match" of the instruction's row: the value of those bits. -/
def Instr.rowMatch : Instr → Word
  | .clearDisplay => 0x00E0
  | .ret => 0x00EE
  | .jump _ => 0x1000
  | .call _ => 0x2000
  | .skipEqImm _ _ => 0x3000
  | .skipNeImm _ _ => 0x4000
  | .skipEqReg _ _ => 0x5000
  | .setImm _ _ => 0x6000
  | .addImm _ _ => 0x7000
  | .setReg _ _ => 0x8000
  | .orReg _ _ => 0x8001
  | .andReg _ _ => 0x8002
  | .xorReg _ _ => 0x8003
  | .addReg _ _ => 0x8004
  | .sub _ _ => 0x8005
  | .shiftRight _ => 0x8006
  | .subReverse _ _ => 0x8007
  | .shiftLeft _ => 0x800E
  | .skipNeReg _ _ => 0x9000
  | .setIndex _ => 0xA000
  | .jumpOffset _ => 0xB000
  | .randomAnd _ _ => 0xC000
  | .draw _ _ _ => 0xD000
  | .skipKeyPressed _ => 0xE09E
  | .skipKeyNotPressed _ => 0xE0A1
  | .getDelay _ => 0xF007
  | .waitKey _ => 0xF00A
  | .setDelay _ => 0xF015
  | .setSound _ => 0xF018
  | .addIndex _ => 0xF01E
  | .fontChar _ => 0xF029
  | .bcd _ => 0xF033
  | .storeRegs _ => 0xF055
  | .loadRegs _ => 0xF065

/-- The bits of the instruction's words that nothing examines (R79). -/
def Instr.ignoredBits : Instr → Word
  | .clearDisplay | .ret => 0x0F00
  | .skipEqReg _ _ | .skipNeReg _ _ => 0x000F
  | .shiftRight _ | .shiftLeft _ => 0x00F0
  | .jump _ | .call _ | .skipEqImm _ _ | .skipNeImm _ _ | .setImm _ _ | .addImm _ _ | .setReg _ _
  | .orReg _ _ | .andReg _ _ | .xorReg _ _ | .addReg _ _ | .sub _ _ | .subReverse _ _ | .setIndex _
  | .jumpOffset _ | .randomAnd _ _ | .draw _ _ _ | .skipKeyPressed _ | .skipKeyNotPressed _
  | .getDelay _ | .waitKey _ | .setDelay _ | .setSound _ | .addIndex _ | .fontChar _ | .bcd _
  | .storeRegs _ | .loadRegs _ => 0x0000

end Sys2Proof
end

