-- ==== Sys2Proof/Config.lean ====
section
/-! DEFINITION. The implementation parameters of spec 00_scope.md R6, and the free values the spec leaves OPEN. -/

namespace Sys2Proof.Config

/-- `MEM_SIZE` (R6, R50): addresses 0x000 to 0xFFF. -/
abbrev memSize : Nat := 4096

/-- `FONT_BASE` (R6, R51). -/
abbrev fontBase : Nat := 0x50

/-- `GLYPH_BYTES` (R6). -/
abbrev glyphBytes : Nat := 5

/-- `NUM_GLYPHS` (R6). -/
abbrev numGlyphs : Nat := 16

/-- The 80 bytes of the font table, `NUM_GLYPHS * GLYPH_BYTES` (R51). -/
abbrev fontSize : Nat := 80

/-- `PROG_BASE` (R6, R243): the entry point. -/
abbrev progBase : Nat := 0x200

/-- `DISPLAY_W` (R6, D22): columns. Configuration, at least 1; 64 is the canonical value. -/
abbrev displayW : Nat := 64

/-- `DISPLAY_H` (R6, D22): rows. Configuration, at least 1; 32 is the canonical value. -/
abbrev displayH : Nat := 32

/-- `SHL_FLAG_BIT` (R6, R131, D2): the operand bit that `shift-left` reports. The value 0 would reproduce the original
repository, which is not this spec's hardware (C1). -/
abbrev shlFlagBit : Nat := 7

/-- What a key index above 15 does (R160). -/
inductive KeyIndexPolicy where
  /-- `raise Fault(KeyIndexError, v)`: this spec's hardware (D6). -/
  | fault
  /-- `v & 0xF`: the parameter variant. -/
  | mask
  deriving DecidableEq, Repr

/-- `KEY_INDEX_POLICY` (R6, D6). -/
def keyIndexPolicy : KeyIndexPolicy := .fault

/-- `FONT_BYTES` (R6, R52). PRESUMED by the spec: the canonical hexadecimal glyphs (D19). One row of the list is one
glyph, 0 to F. -/
def fontBytes : List Byte :=
  [0xF0, 0x90, 0x90, 0x90, 0xF0,
   0x20, 0x60, 0x20, 0x20, 0x70,
   0xF0, 0x10, 0xF0, 0x80, 0xF0,
   0xF0, 0x10, 0xF0, 0x10, 0xF0,
   0x90, 0x90, 0xF0, 0x10, 0x10,
   0xF0, 0x80, 0xF0, 0x10, 0xF0,
   0xF0, 0x80, 0xF0, 0x90, 0xF0,
   0xF0, 0x10, 0x20, 0x40, 0x40] ++
  [0xF0, 0x90, 0xF0, 0x90, 0xF0,
   0xF0, 0x90, 0xF0, 0x10, 0xF0,
   0xF0, 0x90, 0xF0, 0x90, 0x90,
   0xE0, 0x90, 0xE0, 0x90, 0xE0,
   0xF0, 0x80, 0x80, 0x80, 0xF0,
   0xE0, 0x90, 0x90, 0x90, 0xE0,
   0xF0, 0x80, 0xF0, 0x80, 0xF0,
   0xF0, 0x80, 0xF0, 0x80, 0x80]

/-- `RAND` (R6, R132, D8), OPEN: the byte `RandIn()` returns at the model's `n`-th free draw, where the host supplied none.
Log entry 2. -/
opaque freeRandByte : Nat → Byte

/-- `WAIT_KEY_CHOICE` (R6, R163, D7), OPEN: which of several pressed keys `wait-key` stores at the model's `n`-th free draw,
as a position in the list of pressed keys (taken modulo its length). Log entry 3. -/
opaque freeKeyPick : Nat → Nat

/-- Whether a halted block accepts a `keys_in` write (R205: it "may be accepted"), OPEN. Log entry 10. -/
opaque keysWriteWhenHalted : Bool

end Sys2Proof.Config
end

