-- ==== Sys2Proof/Machine/State.lean ====
section
/-! DEFINITION. The state of the block (spec 10_state.md R20 to R37), the reasons a step can stop, and the state after reset
(70_reset_and_hazards.md R240). -/

namespace Sys2Proof.Machine

/-- The errors of 60_exceptions.md R200. Each one's entry is described by R201 and is a NEXT state of the model, whose
`STATUS.code` is the error: no step of the model answers `Outcome.fault` with one of them (log entry 5). -/
inductive Fault where
  /-- Code 1. Raised by `load` alone, for an image longer than 3584 bytes (R241). Safe: no step runs after it. -/
  | loadError
  /-- Code 2. Raised by the fetch of any step, when `pc + 1 > 0xFFF` (R73). Safe: the spec's own fault. -/
  | fetchError
  /-- Code 3. Raised by the decoder of any step, on a word of R80. Safe (D1): the block stops where other CHIP-8 machines go on. -/
  | decodeError
  /-- Code 4. Raised by `call` when 16 entries are in use (R103). Safe: the spec's own fault. -/
  | stackOverflow
  /-- Code 5. Raised by `return` when no entry is in use (R101). Safe: the spec's own fault. -/
  | stackUnderflow
  /-- Code 6. Raised by `draw`, `bcd`, `store-regs` and `load-regs` for an address above 0xFFF (R58). Safe (D4): no masking. -/
  | memoryBoundsError
  /-- Code 7. Raised by `skip-key-pressed` and `skip-key-not-pressed` for a key index above 15 (R160). Safe (D6): no masking. -/
  | keyIndexError
  deriving DecidableEq, Repr

/-- Reasons the model gives an instruction no meaning. Every instruction of the table has one, so none is answered. -/
inductive Refusal where
  /-- The arm of `exec` for an instruction that has no meaning yet. Safe: nothing is claimed of it. -/
  | notModelled (mnemonic : String)
  deriving DecidableEq, Repr

/-- `STATUS.state` (R34). -/
inductive RunState where
  /-- 0: the block takes steps. -/
  | run
  /-- 1: terminal after a fault. -/
  | halted
  deriving DecidableEq, Repr

/-- `STATUS` (R34): the run state, and the fault that halted the block (`none` is the code 0, `NONE`). -/
structure Status where
  state : RunState
  code : Option Fault
  deriving DecidableEq, Repr

/-- Memory: the bytes that differ from what an unlisted address reads as (`Memory.unlisted`), at strictly rising addresses
(`Memory.wf`). -/
abbrev Memory := List Host.Cell

/-- A grid of `h` rows of `w` one-bit cells (R31): bit `c` of row `r` is the cell in row `r` (0 = top), column `c` (0 = left). -/
abbrev Bitmap (w h : Nat) := Vector (BitVec w) h

/-- The state aggregate (R20). -/
structure State where
  /-- `Mem` (R33) -/
  mem : Memory
  /-- `V[0..15]` (R21); `VF` is `V[15]` (R22) -/
  v : Vector Byte 16
  /-- `I` (R24) -/
  i : Word
  /-- `pc` (R25, R26) -/
  pc : Word
  /-- `Stack[0..15]` (R27) -/
  stack : Vector Word 16
  /-- `SP` (R28): the entries in use, 0 to 16 -/
  sp : Fin 17
  /-- `DT` (R29) -/
  dt : Byte
  /-- `ST` (R30) -/
  st : Byte
  /-- `Disp` (R31) -/
  disp : Bitmap Config.displayW Config.displayH
  /-- `Keys[0..15]` (R32) -/
  keys : Vector Bool 16
  /-- `STATUS` (R34) -/
  status : Status
  /-- `FAULT_PC` (R35) -/
  faultPc : Word
  /-- `FAULT_WORD` (R35) -/
  faultWord : Word
  /-- The fault's `info`, kept as a diagnostic (R200, R201; log entry 7) -/
  faultInfo : Word
  /-- The byte on `rand_in` for the next `random-and`, where the host has supplied one (R38, R215; log entry 2) -/
  randIn : Option Byte
  /-- The model's own field: how many free values the machine has drawn (log entry 4) -/
  freeDraws : Nat
  deriving DecidableEq, Repr

/-- The state after a `load` of an empty image (R240), with MEM_INIT at the simulator's default (log entry 1). -/
def State.reset : State where
  mem := []
  v := Vector.replicate 16 0
  i := 0
  pc := 0x200
  stack := Vector.replicate 16 0
  sp := 0
  dt := 0
  st := 0
  disp := Vector.replicate Config.displayH 0
  keys := Vector.replicate 16 false
  status := { state := .run, code := none }
  faultPc := 0
  faultWord := 0
  faultInfo := 0
  randIn := none
  freeDraws := 0

end Sys2Proof.Machine
end

