-- ==== Sys2Proof/Machine/Ops.lean ====
section
/-! DEFINITION. The shared operations over memory, registers, the stack and `pc` (spec 00_scope.md R9, 20_memory.md,
30_encoding.md R73, R74), and taking a fault (60_exceptions.md R201). There is no return from a fault (R204): the only way
out of the halted state is a new `load` (Machine/Transactions.lean). -/

namespace Sys2Proof.Machine

/-- What a step answers. -/
abbrev Result := Host.Outcome State Fault Refusal

/-! ## Memory (R50 to R60) -/

/-- What an address that memory does not list reads as: the font at 0x050-0x09F (R52), and 0 elsewhere, which is what
`MEM_INIT` is in `State.reset` (log entry 1). A load with another `MEM_INIT` lists its bytes. -/
def Memory.unlisted (a : Nat) : Byte :=
  if Config.fontBase ≤ a ∧ a < Config.fontBase + Config.fontSize then Config.fontBytes.getD (a - Config.fontBase) 0
  else 0

/-- `MemRead(a, 1)` (R9): the byte at `a`. -/
def Memory.read : Memory → Nat → Byte
  | [], a => Memory.unlisted a
  | c :: m, a => if c.1 = a then c.2 else Memory.read m a

/-- Put a cell before the first cell of a higher address. -/
def Memory.insert (a : Nat) (v : Byte) : Memory → Memory
  | [] => [(a, v)]
  | c :: m => if a < c.1 then (a, v) :: c :: m else c :: Memory.insert a v m

/-- `MemWrite(a, 1, v)` (R9): the byte at `a` becomes `v`, every other byte stays (R59). A byte equal to what the unlisted
address reads as is not listed. -/
def Memory.write (m : Memory) (a : Nat) (v : Byte) : Memory :=
  let rest := m.filter fun c => c.1 != a
  if v = Memory.unlisted a then rest else Memory.insert a v rest

/-- The canonical form: addresses inside the 4096 bytes, strictly rising, and no cell equal to what its address reads as
when it is not listed. -/
def Memory.wf (m : Memory) : Bool :=
  decide (m.Pairwise fun c d => c.1 < d.1) &&
    m.all fun c => decide (c.1 < Config.memSize) && c.2 != Memory.unlisted c.1

/-- The bytes at `base`, `base + 1`, ..., in ascending order (R57). -/
def Memory.readBytes (m : Memory) (base count : Nat) : List Byte :=
  (List.range count).map fun k => Memory.read m (base + k)

/-- Write bytes at `base`, `base + 1`, ..., in ascending order (R57). -/
def Memory.writeBytes (m : Memory) (base : Nat) : List Byte → Memory
  | [] => m
  | b :: bs => Memory.writeBytes (Memory.write m base b) (base + 1) bs

/-- The cells of the first `n` addresses whose byte `f` differs from what the unlisted address reads as. -/
def Memory.tabulateUpTo (n : Nat) (f : Nat → Byte) : Memory :=
  ((List.range n).filter fun a => f a != Memory.unlisted a).map fun a => (a, f a)

/-- The canonical memory whose byte at each address is `f`. -/
@[irreducible] def Memory.tabulate (f : Nat → Byte) : Memory := Memory.tabulateUpTo Config.memSize f

/-- `CheckRange(base, count)` of R58, as a test: the `count` bytes from `base` lie in memory. The sum does not wrap. -/
def inRange (base count : Nat) : Bool := count == 0 || decide (base + count - 1 < Config.memSize)

/-- The big-endian word at `p` and `p + 1` (R55). -/
def wordAt (m : Memory) (p : Nat) : Word := wordOfBytes (Memory.read m p) (Memory.read m (p + 1))

/-- `Fetch(p)` at `p = pc` (R73): nothing when `p + 1 > 0xFFF`, computed without wrap. -/
def fetch (s : State) : Option Word :=
  if s.pc.toNat + 1 < Config.memSize then some (wordAt s.mem s.pc.toNat) else none

/-! ## Registers (R21, R22) -/

/-- `V[x]`. -/
def State.getV (s : State) (x : Reg) : Byte := s.v[x]

/-- `V[x] <- b`. -/
def State.setV (s : State) (x : Reg) (b : Byte) : State := { s with v := s.v.set x b }

/-- Write registers `k`, `k + 1`, ... from a list of bytes, in order. -/
def writeRegs (v : Vector Byte 16) (k : Nat) : List Byte → Vector Byte 16
  | [] => v
  | b :: bs => writeRegs (v.setIfInBounds k b) (k + 1) bs

/-- `V[0]` to `V[x]`, in order. -/
def State.regsUpTo (s : State) (x : Reg) : List Byte := s.v.toList.take (x.val + 1)

/-- `V[x] <- r` and then `VF <- f`: the flag is written last (R11, R120, D3). -/
def State.setResultAndFlag (s : State) (x : Reg) (r f : Byte) : State := (s.setV x r).setV Reg.vf f

/-! ## The program counter (R25, R74, R100) -/

/-- The advance of the fetch stage: `pc <- (pc + 2) mod 2^16`, before dispatch (R74). -/
def State.advancePc (s : State) : State := { s with pc := s.pc + 2 }

/-- `Skip()` (R100). -/
def State.skip (s : State) : State := { s with pc := s.pc + 2 }

/-- Skip if the condition holds. -/
def State.skipIf (s : State) (c : Bool) : State := if c then s.skip else s

/-- The address of the instruction in its execute phase, where `pc` is already advanced by 2 (R74). -/
def State.instrAddr (s : State) : Word := s.pc - 2

/-- `pc <- target`. -/
def State.setPc (s : State) (target : Word) : State := { s with pc := target }

/-! ## Other components -/

/-- `I <- a`. -/
def State.setI (s : State) (a : Word) : State := { s with i := a }

/-- `Stack[k]`. -/
def State.getStack (s : State) (k : Fin 16) : Word := s.stack[k]

/-- `Stack[k] <- a`. -/
def State.setStack (s : State) (k : Fin 16) (a : Word) : State := { s with stack := s.stack.set k a }

/-- `SP <- n`. -/
def State.setSp (s : State) (n : Fin 17) : State := { s with sp := n }

/-- `DT <- b`. -/
def State.setDt (s : State) (b : Byte) : State := { s with dt := b }

/-- `ST <- b`. -/
def State.setSt (s : State) (b : Byte) : State := { s with st := b }

/-- The whole register file. -/
def State.setRegs (s : State) (v : Vector Byte 16) : State := { s with v := v }

/-- The whole memory. -/
def State.setMem (s : State) (m : Memory) : State := { s with mem := m }

/-- The whole display. -/
def State.setDisp (s : State) (d : Bitmap Config.displayW Config.displayH) : State := { s with disp := d }

/-- A free value has been drawn (log entry 4). -/
def State.countDraw (s : State) : State := { s with freeDraws := s.freeDraws + 1 }

/-- The byte on `rand_in` has been sampled (R215). -/
def State.useRandIn (s : State) : State := { s with randIn := none }

/-- The byte on `rand_in` (R38). -/
def State.setRandIn (s : State) (b : Option Byte) : State := { s with randIn := b }

/-! ## Faults (R200, R201) -/

/-- The codes of R200, as `STATUS.code` holds them. -/
def Fault.code : Fault → BitVec 3
  | .loadError => 1
  | .fetchError => 2
  | .decodeError => 3
  | .stackOverflow => 4
  | .stackUnderflow => 5
  | .memoryBoundsError => 6
  | .keyIndexError => 7

/-- Fault entry (R201). `s0` is the state at the start of the step, `p` its `pc`, `w` the word fetched there and `info` the
fault's operand: the block halts with the state before the faulting instruction. -/
def takeFault (f : Fault) (p w info : Word) (s0 : State) : State :=
  { s0 with
    status := { state := .halted, code := some f }
    faultPc := p
    faultWord := if f = .fetchError then 0 else w
    faultInfo := info }

/-- `raise Fault(code, info)` in the execute phase. `s` is the state the instruction started its execute phase in, so the
state at the start of the step is `s` with `pc` taken back, and the fetched word still stands in memory there
(R65; log entry 6). -/
def raiseFault (f : Fault) (info : Word) (s : State) : Result :=
  .next (takeFault f s.instrAddr (wordAt s.mem s.instrAddr.toNat) info (s.setPc s.instrAddr))

end Sys2Proof.Machine
end

