-- ==== Sys2Proof/Machine/Flags.lean ====
section
/-! DEFINITION. The flag computations (spec 41_alu.md R120, R127 to R131, 44_index_memory.md R181): every flag is written to
`VF` as 0 or 1. -/

namespace Sys2Proof.Machine

/-- A flag as the byte that `VF` holds. -/
def flagByte (c : Bool) : Byte := if c then 1 else 0

/-- `add-reg`: the unwrapped sum exceeds 255 (R127). -/
def addCarry (a b : Byte) : Byte := flagByte (decide (255 < a.toNat + b.toNat))

/-- `sub` and `sub-reverse`: no borrow, a strict comparison of the minuend with the subtrahend (R128, R129). -/
def noBorrow (a b : Byte) : Byte := flagByte (decide (b.toNat < a.toNat))

/-- `shift-right`: the bit shifted out, bit 0 (R130). -/
def shiftRightOut (a : Byte) : Byte := flagByte (a.getLsbD 0)

/-- `shift-left`: bit `SHL_FLAG_BIT` of the operand (R131, C1). -/
def shiftLeftOut (a : Byte) : Byte := flagByte (a.getLsbD Config.shlFlagBit)

/-- `add-index`: the sum passes 0xFFFF (R181). -/
def indexCarry (i : Word) (a : Byte) : Byte := flagByte (decide (0xFFFF < i.toNat + a.toNat))

end Sys2Proof.Machine
end

