-- ==== Sys2Proof/Machine/Operands.lean ====
section
/-! DEFINITION. Operand forms: immediates (spec 30_encoding.md R76), the effective address (44_index_memory.md R186), the key
index (43_keys_timers.md R160), the pressed keys and the open choice among them (R163), the random byte (41_alu.md R132), glyph
addresses (20_memory.md R53) and decimal digits (44_index_memory.md R183). -/

namespace Sys2Proof.Machine

/-- `zext_16(nnn)` (R76). -/
def zextAddr (nnn : Addr) : Word := nnn.setWidth 16

/-- `zext_16(v)` of a byte (R8). -/
def zextByte (b : Byte) : Word := b.setWidth 16

/-- The effective address `I + 0` as a natural number: the data addresses are `I + k`, with no wrap (R58, R186). -/
def State.base (s : State) : Nat := s.i.toNat

/-- `KeyIndex(v)` (R160) under a policy: the key, or nothing where it raises `KeyIndexError`. -/
def keyIndex (policy : Config.KeyIndexPolicy) (v : Byte) : Option (Fin 16) :=
  if h : v.toNat < 16 then some ⟨v.toNat, h⟩
  else match policy with
    | .fault => none
    | .mask => some ⟨v.toNat % 16, Nat.mod_lt _ (by decide)⟩

/-- `Keys[k]`. -/
def State.getKey (s : State) (k : Fin 16) : Bool := s.keys[k]

/-- The sixteen keys. -/
def allKeys : List (Fin 16) := [0, 1, 2, 3, 4, 5, 6, 7, 8, 9, 10, 11, 12, 13, 14, 15]

/-- `P`, the pressed keys (R163). -/
def State.pressedKeys (s : State) : List (Fin 16) := allKeys.filter s.getKey

/-- `WAIT_KEY_CHOICE` (R163, D7) among two or more pressed keys: the open position, taken modulo their number, so that the
choice is always one of them and may be any. -/
def chooseKey (pick : Nat) (k : Fin 16) (ks : List (Fin 16)) : Fin 16 :=
  (k :: ks).getD (pick % (ks.length + 1)) k

/-- `RandIn()` (R132, R215): the byte the host supplied, which is then used up, or a free one. -/
def State.randomByte (s : State) : Byte × State :=
  match s.randIn with
  | some b => (b, s.useRandIn)
  | none => (Config.freeRandByte s.freeDraws, s.countDraw)

/-- The address of glyph `g` (R53). -/
def glyphAddr (g : Nat) : Word := BitVec.ofNat 16 (Config.fontBase + Config.glyphBytes * g)

/-- The three decimal digits of a byte, hundreds first (R183). -/
def bcdDigits (a : Byte) : List Byte := [a / 100, (a / 10) % 10, a % 10]

end Sys2Proof.Machine
end

