-- ==== Sys2Proof/Machine/Alu.lean ====
section
/-! DEFINITION. Register and ALU operations (spec 41_alu.md). Operands are read before any write, and the flag is written
last (R11, R120). -/

namespace Sys2Proof.Machine

/-- `set-imm Vx,NN` (R121). -/
def execSetImm (x : Reg) (nn : Byte) (s : State) : Result := .next (s.setV x nn)

/-- `add-imm Vx,NN` (R122): no flag. -/
def execAddImm (x : Reg) (nn : Byte) (s : State) : Result := .next (s.setV x (s.getV x + nn))

/-- `set-reg Vx,Vy` (R123). -/
def execSetReg (x y : Reg) (s : State) : Result := .next (s.setV x (s.getV y))

/-- `or Vx,Vy` (R124): `VF` is not reset. -/
def execOr (x y : Reg) (s : State) : Result := .next (s.setV x (s.getV x ||| s.getV y))

/-- `and Vx,Vy` (R125). -/
def execAnd (x y : Reg) (s : State) : Result := .next (s.setV x (s.getV x &&& s.getV y))

/-- `xor Vx,Vy` (R126). -/
def execXor (x y : Reg) (s : State) : Result := .next (s.setV x (s.getV x ^^^ s.getV y))

/-- `add-reg Vx,Vy` (R127). -/
def execAddReg (x y : Reg) (s : State) : Result :=
  .next (s.setResultAndFlag x (s.getV x + s.getV y) (addCarry (s.getV x) (s.getV y)))

/-- `sub Vx,Vy` (R128). -/
def execSub (x y : Reg) (s : State) : Result :=
  .next (s.setResultAndFlag x (s.getV x - s.getV y) (noBorrow (s.getV x) (s.getV y)))

/-- `sub-reverse Vx,Vy` (R129). -/
def execSubReverse (x y : Reg) (s : State) : Result :=
  .next (s.setResultAndFlag x (s.getV y - s.getV x) (noBorrow (s.getV y) (s.getV x)))

/-- `shift-right Vx` (R130): logical, by 1, of `V[x]`. -/
def execShiftRight (x : Reg) (s : State) : Result :=
  .next (s.setResultAndFlag x (s.getV x >>> 1) (shiftRightOut (s.getV x)))

/-- `shift-left Vx` (R131). -/
def execShiftLeft (x : Reg) (s : State) : Result :=
  .next (s.setResultAndFlag x (s.getV x <<< 1) (shiftLeftOut (s.getV x)))

/-- `random-and Vx,NN` (R132). -/
def execRandomAnd (x : Reg) (nn : Byte) (s : State) : Result :=
  .next (s.randomByte.2.setV x (s.randomByte.1 &&& nn))

end Sys2Proof.Machine
end

