-- ==== Sys2Proof/Machine/ControlFlow.lean ====
section
/-! DEFINITION. Control flow (spec 40_control_flow.md). In every meaning `pc` is already advanced by 2 (R74). -/

namespace Sys2Proof.Machine

/-- `return` (R101). The entry stays in place, stale (R28). -/
def execReturn (s : State) : Result :=
  if h : s.sp.val = 0 then raiseFault .stackUnderflow 0 s
  else
    let top : Fin 16 := ⟨s.sp.val - 1, by omega⟩
    .next ((s.setSp top.castSucc).setPc (s.getStack top))

/-- `jump NNN` (R102). -/
def execJump (nnn : Addr) (s : State) : Result := .next (s.setPc (zextAddr nnn))

/-- `call NNN` (R103). -/
def execCall (nnn : Addr) (s : State) : Result :=
  if h : s.sp.val < 16 then
    let top : Fin 16 := ⟨s.sp.val, h⟩
    .next (((s.setStack top s.pc).setSp top.succ).setPc (zextAddr nnn))
  else raiseFault .stackOverflow (zextAddr nnn) s

/-- `skip-eq-imm Vx,NN` (R104). -/
def execSkipEqImm (x : Reg) (nn : Byte) (s : State) : Result := .next (s.skipIf (s.getV x == nn))

/-- `skip-ne-imm Vx,NN` (R105). -/
def execSkipNeImm (x : Reg) (nn : Byte) (s : State) : Result := .next (s.skipIf (s.getV x != nn))

/-- `skip-eq-reg Vx,Vy` (R106). -/
def execSkipEqReg (x y : Reg) (s : State) : Result := .next (s.skipIf (s.getV x == s.getV y))

/-- `skip-ne-reg Vx,Vy` (R107). -/
def execSkipNeReg (x y : Reg) (s : State) : Result := .next (s.skipIf (s.getV x != s.getV y))

/-- `jump-offset NNN` (R108): always `V0`, and no truncation to 12 bits. -/
def execJumpOffset (nnn : Addr) (s : State) : Result :=
  .next (s.setPc (zextAddr nnn + zextByte (s.getV Reg.v0)))

end Sys2Proof.Machine
end

