-- ==== Sys2Proof/Machine/Compositor.lean ====
section
/-! DEFINITION. The sprite compositor and the collision detector (spec 42_display.md R140, R142), for a display of any
dimensions: `DISPLAY_W` and `DISPLAY_H` are parameters (D22). -/

namespace Sys2Proof.Machine

/-- `Disp[r][c]` (R31). -/
def Bitmap.cell {w h : Nat} (d : Bitmap w h) (r c : Nat) : Bool := (d[r]?.getD 0).getLsbD c

/-- `Disp[r][c] <- Disp[r][c] ^ 1`. -/
def Bitmap.toggle {w h : Nat} (d : Bitmap w h) (r c : Nat) : Bitmap w h :=
  d.setIfInBounds r (d[r]?.getD 0 ^^^ BitVec.twoPow w c)

/-- Every cell off (R141). -/
def Bitmap.clear (w h : Nat) : Bitmap w h := Vector.replicate h 0

/-- One 1-pixel at row `p.1`, column `p.2`: the collision flag is set if the cell was on, and the cell is toggled (R142). -/
def plot {w h : Nat} (dc : Bitmap w h × Bool) (p : Nat × Nat) : Bitmap w h × Bool :=
  (Bitmap.toggle dc.1 p.1 p.2, dc.2 || Bitmap.cell dc.1 p.1 p.2)

/-- The cells that the 1-bits of a sprite row fall on, MSB first, in display row `py`, wrapping at the right edge (R140). -/
def rowPixels (w cx py : Nat) (row : Byte) : List (Nat × Nat) :=
  ((List.range 8).filter fun c => row.getLsbD (7 - c)).map fun c => (py, (cx + c) % w)

/-- The cells that the 1-bits of a sprite fall on, rows top to bottom from display row `cy`, wrapping at the bottom edge;
the order is the order of R142 (D31). -/
def spritePixels (w h cx : Nat) : (cy : Nat) → List Byte → List (Nat × Nat)
  | _, [] => []
  | cy, row :: rows => rowPixels w cx (cy % h) row ++ spritePixels w h cx (cy + 1) rows

/-- Draw the rows of a sprite at column `cx`, row `cy`: the new display, and whether a lit cell was turned off (R142). -/
def composite {w h : Nat} (d : Bitmap w h) (cx cy : Nat) (rows : List Byte) : Bitmap w h × Bool :=
  (spritePixels w h cx cy rows).foldl plot (d, false)

end Sys2Proof.Machine
end

