-- ==== Sys2Proof/Machine/Display.lean ====
section
/-! DEFINITION. Display operations (spec 42_display.md). -/

namespace Sys2Proof.Machine

/-- `clear-display` (R141): `VF` is unchanged. -/
def execClearDisplay (s : State) : Result :=
  .next (s.setDisp (Bitmap.clear Config.displayW Config.displayH))

/-- `draw Vx,Vy,N` (R142): the coordinates are read before `VF` is written, and with `n = 0` there is no range check. -/
def execDraw (x y : Reg) (n : Nat) (s : State) : Result :=
  if inRange s.base n then
    let drawn := composite s.disp (s.getV x).toNat (s.getV y).toNat (Memory.readBytes s.mem s.base n)
    .next ((s.setDisp drawn.1).setV Reg.vf (flagByte drawn.2))
  else raiseFault .memoryBoundsError s.i s

end Sys2Proof.Machine
end

