-- ==== Sys2Proof/Machine/IndexMemory.lean ====
section
/-! DEFINITION. Index register and memory operations (spec 44_index_memory.md). `I` changes only where a rule says so (D29). -/

namespace Sys2Proof.Machine

/-- `set-index NNN` (R180). -/
def execSetIndex (nnn : Addr) (s : State) : Result := .next (s.setI (zextAddr nnn))

/-- `add-index Vx` (R181): `VF` is written on every execution. -/
def execAddIndex (x : Reg) (s : State) : Result :=
  .next ((s.setI (s.i + zextByte (s.getV x))).setV Reg.vf (indexCarry s.i (s.getV x)))

/-- `font-char Vx` (R182): the low nibble of `V[x]` selects the glyph. -/
def execFontChar (x : Reg) (s : State) : Result := .next (s.setI (glyphAddr ((s.getV x).toNat % 16)))

/-- `bcd Vx` (R183): three bytes (C9). -/
def execBcd (x : Reg) (s : State) : Result :=
  if inRange s.base 3 then
    .next (s.setMem (Memory.writeBytes s.mem s.base (bcdDigits (s.getV x))))
  else raiseFault .memoryBoundsError s.i s

/-- `store-regs Vx` (R184). -/
def execStoreRegs (x : Reg) (s : State) : Result :=
  if inRange s.base (x.val + 1) then
    .next (s.setMem (Memory.writeBytes s.mem s.base (s.regsUpTo x)))
  else raiseFault .memoryBoundsError s.i s

/-- `load-regs Vx` (R185). -/
def execLoadRegs (x : Reg) (s : State) : Result :=
  if inRange s.base (x.val + 1) then
    .next (s.setRegs (writeRegs s.v 0 (Memory.readBytes s.mem s.base (x.val + 1))))
  else raiseFault .memoryBoundsError s.i s

end Sys2Proof.Machine
end

