-- ==== Sys2Proof/Machine/KeysTimers.lean ====
section
/-! DEFINITION. Key and timer operations (spec 43_keys_timers.md). -/

namespace Sys2Proof.Machine

/-- `skip-key-pressed Vx` (R161). -/
def execSkipKeyPressed (x : Reg) (s : State) : Result :=
  match keyIndex Config.keyIndexPolicy (s.getV x) with
  | some k => .next (s.skipIf (s.getKey k))
  | none => raiseFault .keyIndexError (zextByte (s.getV x)) s

/-- `skip-key-not-pressed Vx` (R162). -/
def execSkipKeyNotPressed (x : Reg) (s : State) : Result :=
  match keyIndex Config.keyIndexPolicy (s.getV x) with
  | some k => .next (s.skipIf (!s.getKey k))
  | none => raiseFault .keyIndexError (zextByte (s.getV x)) s

/-- The byte that names a key. -/
def keyByte (k : Fin 16) : Byte := BitVec.ofNat 8 k.val

/-- `wait-key Vx` (R163): with no key pressed `pc` goes back to the instruction itself; with one, its index is stored; with
several, the open choice among them. -/
def execWaitKey (x : Reg) (s : State) : Result :=
  match s.pressedKeys with
  | [] => .next (s.setPc (s.pc - 2))
  | [k] => .next (s.setV x (keyByte k))
  | k :: ks => .next (s.countDraw.setV x (keyByte (chooseKey (Config.freeKeyPick s.freeDraws) k ks)))

/-- `get-delay Vx` (R164). -/
def execGetDelay (x : Reg) (s : State) : Result := .next (s.setV x s.dt)

/-- `set-delay Vx` (R165). -/
def execSetDelay (x : Reg) (s : State) : Result := .next (s.setDt (s.getV x))

/-- `set-sound Vx` (R166). -/
def execSetSound (x : Reg) (s : State) : Result := .next (s.setSt (s.getV x))

end Sys2Proof.Machine
end

