-- ==== Sys2Proof/Machine/Step.lean ====
section
/-! DEFINITION. One step of the block: fetch, advance, decode, execute (spec 30_encoding.md R72 to R74). -/

namespace Sys2Proof.Machine

/-- The `step` transaction (R72). A halted block ignores it (R205; log entry 5). -/
def step (s : State) : Host.Outcome State Fault Refusal :=
  match s.status.state with
  | .halted => .next s
  | .run =>
    match fetch s with
    | none => .next (takeFault .fetchError s.pc 0 s.pc s)
    | some w =>
      match decode w with
      | .error _ => .next (takeFault .decodeError s.pc w w s)
      | .ok i => exec i s.advancePc

/-- `s` with the instruction of the opcode-table word `w` where the next step fetches (log entry 8). The fetch needs a
running block and two bytes at `pc`: a halted block is put back to RUN, and a `pc` that cannot be fetched from goes to the entry
point. Every instruction is one word (R70), so the bits from `nbits` up are 0. -/
def State.withFetchWord (s : State) (nbits w : Nat) : State :=
  let word : Word := BitVec.ofNat 16 (w % 2 ^ nbits)
  let pc : Word := if s.pc.toNat + 1 < Config.memSize then s.pc else BitVec.ofNat 16 Config.progBase
  let status : Status := if s.status.state = .run then s.status else { state := .run, code := none }
  { s with
    pc := pc
    status := status
    mem := Memory.write (Memory.write s.mem pc.toNat (hiByte word)) (pc.toNat + 1) (loByte word) }

end Sys2Proof.Machine
end

