-- ==== Sys2Proof/Machine/Transactions.lean ====
section
/-! DEFINITION. The block's interface (spec 10_state.md R38, 60_exceptions.md R205, R210 to R219): `load`, the transactions of the host
within a run, what the host reads, and runs: one load and then a list of transactions in one total order (R211, R219). -/

namespace Sys2Proof.Machine

/-! ## load (70_reset_and_hazards.md R240, R241) -/

/-- The byte at `a` after a successful load: the image from `PROG_BASE`, the font at `FONT_BASE`, and `MEM_INIT` elsewhere. -/
def loadedByte (memInit : Nat → Byte) (image : List Byte) (a : Nat) : Byte :=
  if Config.progBase ≤ a ∧ a < Config.progBase + image.length then image.getD (a - Config.progBase) 0
  else if Config.fontBase ≤ a ∧ a < Config.fontBase + Config.fontSize then
    Config.fontBytes.getD (a - Config.fontBase) 0
  else memInit a

/-- The longest image: 3584 bytes (R241). -/
def maxImage : Nat := Config.memSize - Config.progBase

/-- `Load(image)` (R240). `memInit` is the OPEN parameter `MEM_INIT`; `rest` is the state after a failed load, of which the
spec defines only `STATUS` and the fault record (R241, log entry 9). `s` gives the count of free values already drawn, which is the
model's own (log entry 4): a new run does not repeat the draws of the run before. -/
def load (memInit : Nat → Byte) (image : List Byte) (rest s : State) : State :=
  if maxImage < image.length then
    { rest with
      status := { state := .halted, code := some .loadError }
      faultPc := 0
      faultWord := 0
      faultInfo := 0
      freeDraws := s.freeDraws }
  else { State.reset with mem := Memory.tabulate (loadedByte memInit image), freeDraws := s.freeDraws }

/-! ## tick and keys_in -/

/-- One countdown: by 1, stopping at 0 (R210, D9). -/
def countDown (t : Byte) : Byte := if t = 0 then 0 else t - 1

/-- `Tick()` (R210). -/
def tick (s : State) : State :=
  match s.status.state with
  | .halted => s
  | .run => { s with dt := countDown s.dt, st := countDown s.st }

/-- `Keys[k]` is bit `k` of `keys_in` (R38). -/
def keysOfBits (ks : BitVec 16) : Vector Bool 16 :=
  #v[ks.getLsbD 0, ks.getLsbD 1, ks.getLsbD 2, ks.getLsbD 3, ks.getLsbD 4, ks.getLsbD 5, ks.getLsbD 6, ks.getLsbD 7,
     ks.getLsbD 8, ks.getLsbD 9, ks.getLsbD 10, ks.getLsbD 11, ks.getLsbD 12, ks.getLsbD 13, ks.getLsbD 14, ks.getLsbD 15]

/-- `keys_in` (R32, R214): the host writes the whole vector. A halted block may accept the write or not (R205, log entry 10). -/
def keysIn (ks : BitVec 16) (s : State) : State :=
  if s.status.state = .run ∨ Config.keysWriteWhenHalted = true then { s with keys := keysOfBits ks } else s

/-! ## rand_in (R38, R215, R219) -/

/-- `rand_in`: the byte that the next `random-and` samples. A halted block has no step to sample it (R205, log entry 11). -/
def supplyRandom (b : Byte) (s : State) : State :=
  match s.status.state with
  | .halted => s
  | .run => s.setRandIn (some b)

/-- The port is given back as it was before the step. -/
def restoreRandIn (before : Option Byte) : Result → Result
  | .next t => .next (t.setRandIn before)
  | .fault r => .fault r
  | .refused r => .refused r

/-- The host's `step` (R72) with the byte it drives on `rand_in` during that step (R38: "sampled during that step"). Every step
of a run brings its byte, so the duty to "supply a byte whenever a `random-and` step runs" (R219) cannot be broken, and nothing of
the byte is left after the step (log entry 2). -/
def hostStep (b : Byte) (s : State) : Result := restoreRandIn s.randIn (step (supplyRandom b s))

/-! ## What the host reads -/

/-- `disp_out` (R38, R213): the display, row-major: element `r * DISPLAY_W + c` is the cell `(r, c)` (R31). -/
def dispOut (s : State) : List Bool :=
  (List.range (Config.displayW * Config.displayH)).map fun e =>
    Bitmap.cell s.disp (e / Config.displayW) (e % Config.displayW)

/-- `tone_out` (R212): 1 exactly while `ST != 0`. -/
def toneOut (s : State) : Bool := s.st != 0

/-- `STATUS.state` as its bit (R34). -/
def RunState.bit : RunState → BitVec 1
  | .run => 0
  | .halted => 1

/-- `STATUS.code` as its three bits (R34). -/
def Status.codeBits (st : Status) : BitVec 3 :=
  match st.code with
  | none => 0
  | some f => f.code

/-- What `status_out` shows (R38): `STATUS` and the fault record. -/
structure StatusOut where
  state : BitVec 1
  code : BitVec 3
  faultPc : Word
  faultWord : Word
  deriving DecidableEq, Repr

/-- `status_out` (R38). -/
def statusOut (s : State) : StatusOut where
  state := s.status.state.bit
  code := s.status.codeBits
  faultPc := s.faultPc
  faultWord := s.faultWord

/-! ## Transactions and runs (R211, R219) -/

/-- The moves the host has within a run. A `load` is none of them: it comes before the first step and once in a run (R219). -/
inductive Transaction where
  /-- A `step`, with the byte on `rand_in` during it. -/
  | step (rand : Byte)
  | tick
  | keysIn (ks : BitVec 16)
  deriving DecidableEq, Repr

/-- One transaction, atomic (R60, R211). -/
def transact (t : Transaction) (s : State) : Result :=
  match t with
  | .step rand => hostStep rand s
  | .tick => .next (tick s)
  | .keysIn ks => .next (keysIn ks s)

/-- Transactions in their total order. The host chooses the list: statements quantify over it (R211, D10). -/
def runSchedule : List Transaction → State → Result
  | [], s => .next s
  | t :: ts, s =>
    match transact t s with
    | .next s' => runSchedule ts s'
    | .fault r => .fault r
    | .refused r => .refused r

/-- A run (R242): one load, with the image and what the spec leaves open of it, and then the host's transactions. The type holds no
run that breaks a duty of R219: none without a load first, none with a second load, none with a transaction inside a step, none
with a `random-and` that has no byte. -/
structure Run where
  memInit : Nat → Byte
  image : List Byte
  rest : State
  schedule : List Transaction

/-- The state after the run's load, from whatever state the block was in: the load of a new run is the way out of the halted
state (R204). -/
def Run.start (r : Run) (s : State) : State := load r.memInit r.image r.rest s

/-- The state after the whole run. -/
def Run.result (r : Run) (s : State) : Result := runSchedule r.schedule (r.start s)

end Sys2Proof.Machine
end

