-- ==== Sys2Proof/Safety.lean ====
section
/-! DEFINITION. The terms claims are stated in: running and halted states, the ends of a run (spec 70_reset_and_hazards.md R251),
what a transition may change, the writers of 10_state.md R23, the causes of 60_exceptions.md R200, and the invariant of the block. -/

namespace Sys2Proof.Machine

/-! ## Running, halted, ends of a run -/

/-- The block takes steps (R34). -/
def State.Running (s : State) : Prop := s.status.state = .run

/-- The block is halted: terminal and faulted, never a normal end (R205, R251 (a)). -/
def State.Halted (s : State) : Prop := s.status.state = .halted

/-- The self-loop end (R251 (b)): `pc = a`, and `Mem[a..a+1]` holds a `jump` word whose `nnn` is `a`. -/
def State.SelfLoopEnd (s : State) : Prop :=
  s.Running ∧ ∃ w nnn, fetch s = some w ∧ decode w = .ok (.jump nnn) ∧ zextAddr nnn = s.pc

/-- The word at `pc` is an encoding of `i`. -/
def State.Fetches (s : State) (i : Instr) : Prop := ∃ w, fetch s = some w ∧ decode w = .ok i

/-! ## What a transition changes -/

/-- The components of the state (R20, R34, R35, and the model's own `freeDraws`). -/
inductive Component where
  | mem | v | i | pc | stack | sp | dt | st | disp | keys | status | faultRecord | randIn | freeDraws
  deriving DecidableEq, Repr

/-- A component has the same value in two states. Memory is compared byte by byte. -/
def Component.Same : Component → State → State → Prop
  | .mem, s, t => ∀ a, Memory.read t.mem a = Memory.read s.mem a
  | .v, s, t => ∀ r, t.getV r = s.getV r
  | .i, s, t => t.i = s.i
  | .pc, s, t => t.pc = s.pc
  | .stack, s, t => ∀ k, t.getStack k = s.getStack k
  | .sp, s, t => t.sp = s.sp
  | .dt, s, t => t.dt = s.dt
  | .st, s, t => t.st = s.st
  | .disp, s, t => t.disp = s.disp
  | .keys, s, t => ∀ k, t.getKey k = s.getKey k
  | .status, s, t => t.status = s.status
  | .faultRecord, s, t =>
    t.faultPc = s.faultPc ∧ t.faultWord = s.faultWord ∧ t.faultInfo = s.faultInfo
  | .randIn, s, t => t.randIn = s.randIn
  | .freeDraws, s, t => t.freeDraws = s.freeDraws

/-- From `s` to `t` only the listed components may change. -/
def OnlyChanges (cs : List Component) (s t : State) : Prop := ∀ c, c ∉ cs → Component.Same c s t

/-- Every register outside the list keeps its value. -/
def KeepsRegsBut (rs : List Reg) (s t : State) : Prop := ∀ r, r ∉ rs → t.getV r = s.getV r

/-- Every byte of memory outside `base`, ..., `base + count - 1` reads as before. -/
def KeepsMemoryOutside (base count : Nat) (s t : State) : Prop :=
  ∀ a, a < base ∨ base + count ≤ a → Memory.read t.mem a = Memory.read s.mem a

/-- From `s`, a state in its execute phase, to `t` the fault `f` with operand `info` is taken (R200, R201): `pc` is back at the
instruction, `STATUS` and the fault record are written, and nothing else changes. R201 lets a model record `info` (log entry
7). That `FAULT_WORD` is the word the step fetched is a statement about the step (`Obligations.FaultsArePrecise`). -/
def TakesFault (f : Fault) (info : Word) (s t : State) : Prop :=
  t.status = { state := .halted, code := some f } ∧
  t.pc = s.pc - 2 ∧ t.faultPc = s.pc - 2 ∧ t.faultInfo = info ∧
  OnlyChanges [.pc, .status, .faultRecord] s t

end Sys2Proof.Machine

namespace Sys2Proof

open Sys2Proof.Machine

/-- The components that R23 lets the instruction write when it raises no fault. `pc` is the execute phase's own write, beside
the advance of every step. The open draws of `random-and` and `wait-key` also use up `rand_in` or count a free value. -/
def Instr.writes : Instr → List Component
  | .clearDisplay => [.disp]
  | .ret => [.pc, .sp]
  | .call _ => [.pc, .sp, .stack]
  | .jump _ | .jumpOffset _ | .skipEqImm _ _ | .skipNeImm _ _ | .skipEqReg _ _ | .skipNeReg _ _
  | .skipKeyPressed _ | .skipKeyNotPressed _ => [.pc]
  | .setImm _ _ | .addImm _ _ | .setReg _ _ | .orReg _ _ | .andReg _ _ | .xorReg _ _ | .addReg _ _
  | .sub _ _ | .shiftRight _ | .subReverse _ _ | .shiftLeft _ | .getDelay _ | .loadRegs _ => [.v]
  | .randomAnd _ _ => [.v, .randIn, .freeDraws]
  | .waitKey _ => [.v, .pc, .freeDraws]
  | .setIndex _ | .fontChar _ => [.i]
  | .addIndex _ => [.i, .v]
  | .draw _ _ _ => [.disp, .v]
  | .setDelay _ => [.dt]
  | .setSound _ => [.st]
  | .bcd _ | .storeRegs _ => [.mem]

/-- The registers that R23 lets the instruction write. -/
def Instr.writesReg (i : Instr) (r : Reg) : Prop :=
  match i with
  | .setImm x _ | .addImm x _ | .setReg x _ | .orReg x _ | .andReg x _ | .xorReg x _ | .randomAnd x _
  | .getDelay x | .waitKey x => r = x
  | .addReg x _ | .sub x _ | .shiftRight x | .subReverse x _ | .shiftLeft x => r = x ∨ r = Reg.vf
  | .addIndex _ | .draw _ _ _ => r = Reg.vf
  | .loadRegs x => r ≤ x
  | .clearDisplay | .ret | .call _ | .jump _ | .jumpOffset _ | .skipEqImm _ _ | .skipNeImm _ _
  | .skipEqReg _ _ | .skipNeReg _ _ | .skipKeyPressed _ | .skipKeyNotPressed _ | .setIndex _
  | .fontChar _ | .setDelay _ | .setSound _ | .bcd _ | .storeRegs _ => False

/-- How many bytes the instruction accesses from `I` on (R57). -/
def Instr.dataBytes : Instr → Nat
  | .draw _ _ n => n
  | .bcd _ => 3
  | .storeRegs x | .loadRegs x => x.val + 1
  | .clearDisplay | .ret | .call _ | .jump _ | .jumpOffset _ | .skipEqImm _ _ | .skipNeImm _ _
  | .skipEqReg _ _ | .skipNeReg _ _ | .skipKeyPressed _ | .skipKeyNotPressed _ | .setImm _ _
  | .addImm _ _ | .setReg _ _ | .orReg _ _ | .andReg _ _ | .xorReg _ _ | .addReg _ _ | .sub _ _
  | .shiftRight _ | .subReverse _ _ | .shiftLeft _ | .getDelay _ | .randomAnd _ _ | .waitKey _
  | .setIndex _ | .fontChar _ | .addIndex _ | .setDelay _ | .setSound _ => 0

end Sys2Proof

namespace Sys2Proof.Machine

/-- The illegal words of R80. -/
def IllegalWord (w : Word) : Prop :=
  (opField w = 0x0 ∧ nnField w ∉ ([0xE0, 0xEE] : List Byte)) ∨
  (opField w = 0x8 ∧ nField w ∈ [0x8, 0x9, 0xA, 0xB, 0xC, 0xD, 0xF]) ∨
  (opField w = 0xE ∧ nnField w ∉ ([0x9E, 0xA1] : List Byte)) ∨
  (opField w = 0xF ∧
    nnField w ∉ ([0x07, 0x0A, 0x15, 0x18, 0x1E, 0x29, 0x33, 0x55, 0x65] : List Byte))

/-- The causes of R200: the step from a running `s` raises `f`. -/
def FaultCause (f : Fault) (s : State) : Prop :=
  match f with
  | .loadError => False
  | .fetchError => 0xFFF < s.pc.toNat + 1
  | .decodeError => ∃ w, fetch s = some w ∧ IllegalWord w
  | .stackOverflow => ∃ nnn, s.Fetches (.call nnn) ∧ s.sp.val = 16
  | .stackUnderflow => s.Fetches .ret ∧ s.sp.val = 0
  | .memoryBoundsError =>
    ∃ i, s.Fetches i ∧ 0 < Instr.dataBytes i ∧ 0xFFF < s.i.toNat + Instr.dataBytes i - 1
  | .keyIndexError =>
    ∃ x, (s.Fetches (.skipKeyPressed x) ∨ s.Fetches (.skipKeyNotPressed x)) ∧ 0xF < (s.getV x).toNat

/-- Row `i` of the sprite of `draw Vx,Vy,N` has a 1-bit that falls on the cell in row `r`, column `c` (R142). -/
def SpriteCovers (x y : Reg) (n : Nat) (s : State) (r c : Nat) : Prop :=
  ∃ i < n, ∃ j < 8,
    (Memory.read s.mem (s.i.toNat + i)).getLsbD (7 - j) = true ∧
    r = ((s.getV y).toNat + i) % Config.displayH ∧ c = ((s.getV x).toNat + j) % Config.displayW

/-- The cell in row `r`, column `c` is on the display (R31). -/
def OnGrid (r c : Nat) : Prop := r < Config.displayH ∧ c < Config.displayW

/-! ## Schedules -/

/-- The transaction is a step or a tick. -/
def Transaction.StepOrTick : Transaction → Prop
  | .step _ | .tick => True
  | .keysIn _ => False

end Sys2Proof.Machine

namespace Sys2Proof

open Sys2Proof.Machine

/-- The instruction reads or writes a timer (R29, R30). -/
def Instr.UsesTimers : Instr → Prop
  | .getDelay _ | .setDelay _ | .setSound _ => True
  | .clearDisplay | .ret | .call _ | .jump _ | .jumpOffset _ | .skipEqImm _ _ | .skipNeImm _ _
  | .skipEqReg _ _ | .skipNeReg _ _ | .skipKeyPressed _ | .skipKeyNotPressed _ | .setImm _ _
  | .addImm _ _ | .setReg _ _ | .orReg _ _ | .andReg _ _ | .xorReg _ _ | .addReg _ _ | .sub _ _
  | .shiftRight _ | .subReverse _ _ | .shiftLeft _ | .randomAnd _ _ | .waitKey _ | .setIndex _
  | .fontChar _ | .addIndex _ | .draw _ _ _ | .bcd _ | .storeRegs _ | .loadRegs _ => False

end Sys2Proof

namespace Sys2Proof.Machine

/-! ## The invariant of the block -/

/-- `STATUS` has a legal value: RUN exactly with the code NONE (R34). -/
def Status.Legal (st : Status) : Prop := st.state = .run ↔ st.code = none

/-- The fault record says what R35 and R201 let it say: nothing while the block runs, and after a fault of a step the address
of the faulting instruction, at which `pc` still stands. -/
def State.RecordLegal (s : State) : Prop :=
  (s.status.state = .run → s.faultPc = 0 ∧ s.faultWord = 0 ∧ s.faultInfo = 0) ∧
  (∀ f, s.status.code = some f → f ≠ .loadError → s.faultPc = s.pc) ∧
  (s.status.code = some .fetchError ∨ s.status.code = some .loadError → s.faultWord = 0)

/-- `pc` never passes 0x10FE and no stack entry passes 0x1000 (R26). -/
def State.PcBounded (s : State) : Prop := s.pc.toNat ≤ 0x10FE ∧ ∀ k, (s.getStack k).toNat ≤ 0x1000

/-- The invariant: memory in its canonical form, a legal `STATUS` and fault record, and bounded return addresses. -/
structure State.Inv (s : State) : Prop where
  memory : Memory.wf s.mem = true
  status : Status.Legal s.status
  record : s.RecordLegal
  bounded : s.PcBounded

/-- A run whose load hands the block no impossible state: the unspecified state after a failed load is one of the block's
own (R241 leaves it open, log entry 9). -/
def Run.Admissible (r : Run) : Prop :=
  maxImage < r.image.length → Memory.wf r.rest.mem = true ∧ r.rest.PcBounded

end Sys2Proof.Machine
end

