-- ==== Sys2Proof/Certificates/Slice0/Obligations.lean ====
section
/-! DEFINITION. The statements for the provers, from the numbered rules of spec/. -/

open Sys2Proof Sys2Proof.Machine

/-! ## Encoding and decoding (30_encoding.md) -/

/-- Words written out from R75, R78 and R79 decode to the operations they stand for. -/
def Obligations.KnownWordsDecode : Prop :=
  decode 0xA250 = .ok (.setIndex 0x250) ∧ decode 0x600A = .ok (.setImm 0 0x0A) ∧
  decode 0xD125 = .ok (.draw 1 2 5) ∧ decode 0x05EE = .ok .ret ∧ decode 0x8126 = .ok (.shiftRight 1) ∧
  decode 0xF30A = .ok (.waitKey 3) ∧ decode 0x0000 = .error (.illegalWord 0x0000)

/-- Decoding the word of a well-formed instruction gives the instruction back, whatever its operands (R75, R78, R82). -/
def Obligations.DecodeOfEncodeIsTheInstruction : Prop :=
  ∀ i : Instr, i.wellFormed = true → decode (encode i) = .ok i

/-- A word that decodes has the fixed bits of its instruction's row of the opcode table, its instruction is well formed, and
encoding that gives the word with the unexamined bits cleared (R75, R78, R79, R82; that the encoder writes 0 there is the model's
choice, log entry 20). -/
def Obligations.DecodedWordsFollowTheirRow : Prop :=
  ∀ (w : Word) (i : Instr), decode w = .ok i →
    i.wellFormed = true ∧ w &&& i.rowMask = i.rowMatch ∧ encode i = w &&& ~~~ i.ignoredBits

/-- Every word with the fixed bits of a row decodes, to an instruction of that row, and no word has the fixed bits of two
rows (R78). -/
def Obligations.EveryRowWordDecodesToItsRow : Prop :=
  ∀ (w : Word) (i : Instr), w &&& i.rowMask = i.rowMatch →
    (∃ j, decode w = .ok j ∧ j.rowMask = i.rowMask ∧ j.rowMatch = i.rowMatch) ∧
    ∀ j : Instr, w &&& j.rowMask = j.rowMatch → j.rowMask = i.rowMask ∧ j.rowMatch = i.rowMatch

/-- The bits of R79 make no difference to what a word decodes to (the spec's decision D17). -/
def Obligations.UnexaminedBitsDoNotMatter : Prop :=
  (∀ w w' : Word, opField w = 0x0 → opField w' = 0x0 → nnField w = nnField w' →
    ∀ i, decode w = .ok i → decode w' = .ok i) ∧
  (∀ w w' : Word, (opField w = 0x5 ∨ opField w = 0x9) → opField w' = opField w → xField w' = xField w →
    yField w' = yField w → decode w' = decode w) ∧
  (∀ w w' : Word, opField w = 0x8 → (nField w = 0x6 ∨ nField w = 0xE) → opField w' = 0x8 →
    nField w' = nField w → xField w' = xField w → decode w' = decode w)

/-- The words the decoder rejects are exactly those of R80, and a step that fetches one halts the block with DecodeError, the
word in the fault record and nothing else changed (the spec's decision D1; the recorded operand is log entry 7). -/
def Obligations.IllegalWordsHaltWithDecodeError : Prop :=
  (∀ w : Word, (∃ e, decode w = .error e) ↔ IllegalWord w) ∧
  ∀ (s : State) (w : Word), s.Running → fetch s = some w → IllegalWord w →
    ∃ t, step s = .next t ∧ t.status = { state := .halted, code := some .decodeError } ∧
      t.faultPc = s.pc ∧ t.faultWord = w ∧ t.faultInfo = w ∧ OnlyChanges [.status, .faultRecord] s t

/-! ## The step (30_encoding.md R72 to R74) -/

/-- When the word at `pc` decodes to `i`, a step of a running block is `i` executed with `pc` advanced by 2 (R72, R74). -/
def Obligations.StepRunsTheDecodedInstruction : Prop :=
  ∀ (s : State) (i : Instr), s.Running → s.Fetches i →
    step s = exec i s.advancePc ∧ s.advancePc.pc = s.pc + 2 ∧ OnlyChanges [.pc] s s.advancePc

/-- The fetch reads a big-endian word at any `pc` up to 0xFFE; above that the step halts with FetchError (R73, R201; that the
operand is recorded is the model's choice, log entry 7). -/
def Obligations.FetchReadsBigEndianOrFaults : Prop :=
  ∀ s : State,
    (s.pc.toNat + 1 ≤ 0xFFF → ∃ w, fetch s = some w ∧
      w.toNat = (Memory.read s.mem s.pc.toNat).toNat * 256 + (Memory.read s.mem (s.pc.toNat + 1)).toNat) ∧
    (0xFFF < s.pc.toNat + 1 → fetch s = none ∧ (s.Running →
      ∃ t, step s = .next t ∧ t.status = { state := .halted, code := some .fetchError } ∧
        t.faultPc = s.pc ∧ t.faultWord = 0 ∧ t.faultInfo = s.pc ∧ OnlyChanges [.status, .faultRecord] s t))

/-- Every state has a next state: no step of the block is a stop of the model (R72, log entry 5). -/
def Obligations.EveryStepAnswersANextState : Prop := ∀ s : State, ∃ t, step s = .next t

/-! ## Faults and the halted state (60_exceptions.md) -/

/-- A step of a running block that halts it leaves every component as it was, and records the code, the address and the word of
the faulting instruction (R201; the restored `pc` is the spec's decision D13). -/
def Obligations.FaultsArePrecise : Prop :=
  ∀ s t : State, s.Running → step s = .next t → t.Halted →
    OnlyChanges [.status, .faultRecord] s t ∧
    ∃ f, f ≠ Fault.loadError ∧ t.status = { state := .halted, code := some f } ∧ t.faultPc = s.pc ∧
      (f = .fetchError → t.faultWord = 0) ∧ (f ≠ .fetchError → fetch s = some t.faultWord)

/-- A step of a running block halts with a fault exactly when the state has that fault's cause in R200, so that at most one
fault has its cause (R203). -/
def Obligations.StepFaultsExactlyOnItsCauses : Prop :=
  ∀ (s : State) (f : Fault), s.Running →
    ((∃ t, step s = .next t ∧ t.status = { state := .halted, code := some f }) ↔ FaultCause f s)

/-- A halted block ignores steps and ticks, and no schedule of a run changes more than the keys, which no step reads (R205; the
spec's decision D14). -/
def Obligations.HaltedStateIsFinal : Prop :=
  ∀ s : State, s.Halted →
    step s = .next s ∧ tick s = s ∧
    ∀ ts : List Transaction,
      ∃ t, runSchedule ts s = .next t ∧ OnlyChanges [.keys] s t ∧ step t = .next t ∧
        dispOut t = dispOut s ∧ statusOut t = statusOut s

/-! ## Control flow (40_control_flow.md). In every statement `s` is the state in the execute phase, `pc` advanced -/

/-- `return` (R101, and R201 for the fault; that its operand is recorded is the model's choice, log entry 7). -/
def Obligations.ReturnPopsIntoPc : Prop :=
  (∀ w : Word, opField w = 0x0 → nnField w = 0xEE → decode w = .ok .ret) ∧
  (∀ s : State, s.sp.val = 0 → ∃ t, exec .ret s = .next t ∧ TakesFault .stackUnderflow 0 s t) ∧
  ∀ (s : State) (k : Fin 16), s.sp.val = k.val + 1 →
    ∃ t, exec .ret s = .next t ∧ t.pc = s.getStack k ∧ t.sp.val = k.val ∧ OnlyChanges [.pc, .sp] s t

/-- `jump` (R102) and `jump-offset` (R108): the target, not truncated to 12 bits; after a target above 0xFFE the next step raises
FetchError there. -/
def Obligations.JumpsSetPc : Prop :=
  (∀ w : Word, (opField w = 0x1 → decode w = .ok (.jump (nnnField w))) ∧
    (opField w = 0xB → decode w = .ok (.jumpOffset (nnnField w)))) ∧
  ∀ (nnn : Addr) (s : State),
    (∃ t, exec (.jump nnn) s = .next t ∧ t.pc.toNat = nnn.toNat ∧ OnlyChanges [.pc] s t ∧
      (s.Running → 0xFFE < nnn.toNat → ∃ u, step t = .next u ∧ u.faultPc = t.pc ∧
        u.status = { state := .halted, code := some .fetchError })) ∧
    (∃ t, exec (.jumpOffset nnn) s = .next t ∧ t.pc.toNat = nnn.toNat + (s.getV 0).toNat ∧
      OnlyChanges [.pc] s t ∧
      (s.Running → 0xFFE < nnn.toNat + (s.getV 0).toNat → ∃ u, step t = .next u ∧ u.faultPc = t.pc ∧
        u.status = { state := .halted, code := some .fetchError }))

/-- `call` (R103): the advanced `pc` is pushed; with 16 entries in use the fault is taken (R201; that its operand is recorded is the
model's choice, log entry 7). -/
def Obligations.CallPushesTheAdvancedPc : Prop :=
  (∀ w : Word, opField w = 0x2 → decode w = .ok (.call (nnnField w))) ∧
  (∀ (nnn : Addr) (s : State), s.sp.val = 16 →
    ∃ t, exec (.call nnn) s = .next t ∧ TakesFault .stackOverflow (nnn.setWidth 16) s t) ∧
  ∀ (nnn : Addr) (s : State) (k : Fin 16), s.sp.val = k.val →
    ∃ t, exec (.call nnn) s = .next t ∧ t.getStack k = s.pc ∧ (∀ j, j ≠ k → t.getStack j = s.getStack j) ∧
      t.sp.val = k.val + 1 ∧ t.pc.toNat = nnn.toNat ∧ OnlyChanges [.pc, .sp, .stack] s t

/-- The four skips on registers and immediates (R104 to R107): `pc` goes 2 further exactly when the test holds. -/
def Obligations.SkipsTestTheirOperands : Prop :=
  (∀ w : Word, (opField w = 0x3 → decode w = .ok (.skipEqImm (xField w) (nnField w))) ∧
    (opField w = 0x4 → decode w = .ok (.skipNeImm (xField w) (nnField w))) ∧
    (opField w = 0x5 → decode w = .ok (.skipEqReg (xField w) (yField w))) ∧
    (opField w = 0x9 → decode w = .ok (.skipNeReg (xField w) (yField w)))) ∧
  ∀ (x y : Reg) (nn : Byte) (s : State),
    (∃ t, exec (.skipEqImm x nn) s = .next t ∧ t.pc = (if s.getV x = nn then s.pc + 2 else s.pc) ∧
      OnlyChanges [.pc] s t) ∧
    (∃ t, exec (.skipNeImm x nn) s = .next t ∧ t.pc = (if s.getV x = nn then s.pc else s.pc + 2) ∧
      OnlyChanges [.pc] s t) ∧
    (∃ t, exec (.skipEqReg x y) s = .next t ∧ t.pc = (if s.getV x = s.getV y then s.pc + 2 else s.pc) ∧
      OnlyChanges [.pc] s t) ∧
    (∃ t, exec (.skipNeReg x y) s = .next t ∧ t.pc = (if s.getV x = s.getV y then s.pc else s.pc + 2) ∧
      OnlyChanges [.pc] s t)

/-! ## Registers and ALU (41_alu.md) -/

/-- `set-imm`, `add-imm`, `set-reg` (R121 to R123): the destination, and no flag. -/
def Obligations.ImmediateMovesWriteOnlyTheirDestination : Prop :=
  (∀ w : Word, (opField w = 0x6 → decode w = .ok (.setImm (xField w) (nnField w))) ∧
    (opField w = 0x7 → decode w = .ok (.addImm (xField w) (nnField w))) ∧
    (opField w = 0x8 → nField w = 0x0 → decode w = .ok (.setReg (xField w) (yField w)))) ∧
  ∀ (x y : Reg) (nn : Byte) (s : State),
    (∃ t, exec (.setImm x nn) s = .next t ∧ t.getV x = nn ∧ KeepsRegsBut [x] s t ∧ OnlyChanges [.v] s t) ∧
    (∃ t, exec (.addImm x nn) s = .next t ∧ (t.getV x).toNat = ((s.getV x).toNat + nn.toNat) % 256 ∧
      KeepsRegsBut [x] s t ∧ OnlyChanges [.v] s t) ∧
    (∃ t, exec (.setReg x y) s = .next t ∧ t.getV x = s.getV y ∧ KeepsRegsBut [x] s t ∧ OnlyChanges [.v] s t)

/-- `or`, `and`, `xor` (R124 to R126): bit by bit, and `VF` is not reset. -/
def Obligations.LogicIsBitwiseAndKeepsVF : Prop :=
  (∀ w : Word, opField w = 0x8 → (nField w = 0x1 → decode w = .ok (.orReg (xField w) (yField w))) ∧
    (nField w = 0x2 → decode w = .ok (.andReg (xField w) (yField w))) ∧
    (nField w = 0x3 → decode w = .ok (.xorReg (xField w) (yField w)))) ∧
  ∀ (x y : Reg) (s : State),
    (∃ t, exec (.orReg x y) s = .next t ∧
      (∀ k, (t.getV x).getLsbD k = ((s.getV x).getLsbD k || (s.getV y).getLsbD k)) ∧
      KeepsRegsBut [x] s t ∧ OnlyChanges [.v] s t) ∧
    (∃ t, exec (.andReg x y) s = .next t ∧
      (∀ k, (t.getV x).getLsbD k = ((s.getV x).getLsbD k && (s.getV y).getLsbD k)) ∧
      KeepsRegsBut [x] s t ∧ OnlyChanges [.v] s t) ∧
    (∃ t, exec (.xorReg x y) s = .next t ∧
      (∀ k, (t.getV x).getLsbD k = ((s.getV x).getLsbD k ^^ (s.getV y).getLsbD k)) ∧
      KeepsRegsBut [x] s t ∧ OnlyChanges [.v] s t)

/-- `add-reg` (R127): the sum modulo 256 and the carry, which wins when the destination is `VF` (the spec's decision D3). -/
def Obligations.AddRegSetsSumAndCarry : Prop :=
  (∀ w : Word, opField w = 0x8 → nField w = 0x4 → decode w = .ok (.addReg (xField w) (yField w))) ∧
  ∀ (x y : Reg) (s : State), ∃ t, exec (.addReg x y) s = .next t ∧
    (x ≠ Reg.vf → (t.getV x).toNat = ((s.getV x).toNat + (s.getV y).toNat) % 256) ∧
    (t.getV Reg.vf).toNat = (if 255 < (s.getV x).toNat + (s.getV y).toNat then 1 else 0) ∧
    KeepsRegsBut [x, Reg.vf] s t ∧ OnlyChanges [.v] s t

/-- `sub` (R128) and `sub-reverse` (R129): the difference modulo 256, and no borrow as a strict comparison; the
flag wins when the destination is `VF` (the spec's decision D3). -/
def Obligations.SubtractionsSetDifferenceAndNoBorrow : Prop :=
  (∀ w : Word, opField w = 0x8 → (nField w = 0x5 → decode w = .ok (.sub (xField w) (yField w))) ∧
    (nField w = 0x7 → decode w = .ok (.subReverse (xField w) (yField w)))) ∧
  ∀ (x y : Reg) (s : State),
    (∃ t, exec (.sub x y) s = .next t ∧
      (x ≠ Reg.vf → (t.getV x).toNat = ((s.getV x).toNat + 256 - (s.getV y).toNat) % 256) ∧
      (t.getV Reg.vf).toNat = (if (s.getV y).toNat < (s.getV x).toNat then 1 else 0) ∧
      KeepsRegsBut [x, Reg.vf] s t ∧ OnlyChanges [.v] s t) ∧
    (∃ t, exec (.subReverse x y) s = .next t ∧
      (x ≠ Reg.vf → (t.getV x).toNat = ((s.getV y).toNat + 256 - (s.getV x).toNat) % 256) ∧
      (t.getV Reg.vf).toNat = (if (s.getV x).toNat < (s.getV y).toNat then 1 else 0) ∧
      KeepsRegsBut [x, Reg.vf] s t ∧ OnlyChanges [.v] s t)

/-- `shift-right` (R130) and `shift-left` (R131), whatever the `y` field of the word: half and twice the operand, and the bit
shifted out (for `shift-left` bit 7, the spec's decision D2), which wins when the destination is `VF` (D3). -/
def Obligations.ShiftsReportTheBitShiftedOut : Prop :=
  (∀ w : Word, opField w = 0x8 → (nField w = 0x6 → decode w = .ok (.shiftRight (xField w))) ∧
    (nField w = 0xE → decode w = .ok (.shiftLeft (xField w)))) ∧
  ∀ (x : Reg) (s : State),
    (∃ t, exec (.shiftRight x) s = .next t ∧ (x ≠ Reg.vf → (t.getV x).toNat = (s.getV x).toNat / 2) ∧
      (t.getV Reg.vf).toNat = (s.getV x).toNat % 2 ∧ KeepsRegsBut [x, Reg.vf] s t ∧ OnlyChanges [.v] s t) ∧
    (∃ t, exec (.shiftLeft x) s = .next t ∧ (x ≠ Reg.vf → (t.getV x).toNat = (2 * (s.getV x).toNat) % 256) ∧
      (t.getV Reg.vf).toNat = (s.getV x).toNat / 128 ∧ KeepsRegsBut [x, Reg.vf] s t ∧ OnlyChanges [.v] s t)

/-- `random-and` (R132): the destination is a byte masked by `NN`. A byte that the host supplied is the one, and is used up; where
it supplied none the byte is some byte, and a free draw is counted; so it may be any byte (the spec's decision D8). That State
holds the byte until it is used, and counts the free draws, are the model's choices, log entries 2 and 4. -/
def Obligations.RandomAndMasksAnyByte : Prop :=
  (∀ w : Word, opField w = 0xC → decode w = .ok (.randomAnd (xField w) (nnField w))) ∧
  ∀ (x : Reg) (nn : Byte) (s : State),
    (∀ b, s.randIn = some b → ∃ t, exec (.randomAnd x nn) s = .next t ∧ t.getV x = b &&& nn ∧
      t.randIn = none ∧ KeepsRegsBut [x] s t ∧ OnlyChanges [.v, .randIn] s t) ∧
    (s.randIn = none → ∃ r t, exec (.randomAnd x nn) s = .next t ∧ t.getV x = r &&& nn ∧
      t.freeDraws = s.freeDraws + 1 ∧ KeepsRegsBut [x] s t ∧ OnlyChanges [.v, .freeDraws] s t) ∧
    ∀ r, s.Running → ∃ t, exec (.randomAnd x nn) (supplyRandom r s) = .next t ∧ t.getV x = r &&& nn

/-! ## Display (42_display.md) -/

/-- `clear-display` (R141). -/
def Obligations.ClearDisplayTurnsEveryCellOff : Prop :=
  (∀ w : Word, opField w = 0x0 → nnField w = 0xE0 → decode w = .ok .clearDisplay) ∧
  ∀ s : State, ∃ t, exec .clearDisplay s = .next t ∧
    (∀ r c, OnGrid r c → Bitmap.cell t.disp r c = false) ∧ OnlyChanges [.disp] s t

/-- `draw` (R142): exactly the cells that the sprite's 1-bits fall on, wrapped at both edges, are toggled; `VF` is 1 exactly
when one of them was lit, written after the coordinates are read (the spec's decision D3); and a sprite that passes the end of memory
is a fault (D4, R201; that its operand is recorded is the model's choice, log entry 7). -/
def Obligations.DrawTogglesExactlyTheSpriteCells : Prop :=
  (∀ w : Word, opField w = 0xD → decode w = .ok (.draw (xField w) (yField w) (nField w))) ∧
  (∀ (x y : Reg) (n : Nat) (s : State), n ≤ 15 → n = 0 ∨ s.i.toNat + n - 1 ≤ 0xFFF →
    ∃ t, exec (.draw x y n) s = .next t ∧
      (∀ r c, OnGrid r c → (SpriteCovers x y n s r c → Bitmap.cell t.disp r c = !Bitmap.cell s.disp r c) ∧
        (¬SpriteCovers x y n s r c → Bitmap.cell t.disp r c = Bitmap.cell s.disp r c)) ∧
      ((∃ r c, SpriteCovers x y n s r c ∧ Bitmap.cell s.disp r c = true) → t.getV Reg.vf = 1) ∧
      ((∀ r c, SpriteCovers x y n s r c → Bitmap.cell s.disp r c = false) → t.getV Reg.vf = 0) ∧
      KeepsRegsBut [Reg.vf] s t ∧ OnlyChanges [.disp, .v] s t) ∧
  ∀ (x y : Reg) (n : Nat) (s : State), 0 < n → 0xFFF < s.i.toNat + n - 1 →
    ∃ t, exec (.draw x y n) s = .next t ∧ TakesFault .memoryBoundsError s.i s t

/-- Drawing the same sprite twice at the same place restores the display, and where the first draw hit nothing, the second
collides exactly when the sprite has a 1-bit (R143; log entry 24). -/
def Obligations.DrawTwiceRestoresTheDisplay : Prop :=
  ∀ (x y : Reg) (n : Nat) (s s' : State), n ≤ 15 → n = 0 ∨ s.i.toNat + n - 1 ≤ 0xFFF →
    ∃ t, exec (.draw x y n) s = .next t ∧
      (s'.disp = t.disp → s'.i = s.i → s'.getV x = s.getV x → s'.getV y = s.getV y →
        (∀ a, Memory.read s'.mem a = Memory.read s.mem a) →
        ∃ u, exec (.draw x y n) s' = .next u ∧ u.disp = s.disp ∧
          (t.getV Reg.vf = 0 → (∃ r c, SpriteCovers x y n s r c) → u.getV Reg.vf = 1) ∧
          ((∀ r c, ¬SpriteCovers x y n s r c) → u.getV Reg.vf = 0))

/-- After `clear-display`, a `draw` leaves exactly the sprite's cells lit and `VF = 0` (R143). -/
def Obligations.ClearThenDrawShowsExactlyTheSprite : Prop :=
  ∀ (x y : Reg) (n : Nat) (s : State), n ≤ 15 → n = 0 ∨ s.i.toNat + n - 1 ≤ 0xFFF →
    ∃ u t, exec .clearDisplay s = .next u ∧ exec (.draw x y n) u = .next t ∧
      (∀ r c, OnGrid r c → (Bitmap.cell t.disp r c = true ↔ SpriteCovers x y n s r c)) ∧
      t.getV Reg.vf = 0

/-- On a display of any dimensions, a sprite that toggles some cell twice collides: the second toggle finds the cell lit, or
the first did (R142, D31). -/
def Obligations.ACellToggledTwiceCollides : Prop :=
  ∀ (w h : Nat) (d : Bitmap w h) (cx cy : Nat) (rows : List Byte), 0 < w → 0 < h →
    ¬(spritePixels w h cx cy rows).Nodup → (composite d cx cy rows).2 = true

/-! ## Keys and timers (43_keys_timers.md, 60_exceptions.md R210, R212) -/

/-- The key skips (R161, R162) and the key index (R160): a value above 15 is the fault KeyIndexError, or is masked under the
other setting of the parameter (the spec's decision D6). The fault is taken as R201 says; that its operand is recorded is the model's
choice, log entry 7. -/
def Obligations.KeySkipsTestTheIndexedKey : Prop :=
  (∀ w : Word, opField w = 0xE → (nnField w = 0x9E → decode w = .ok (.skipKeyPressed (xField w))) ∧
    (nnField w = 0xA1 → decode w = .ok (.skipKeyNotPressed (xField w)))) ∧
  (∀ (x : Reg) (s : State) (k : Fin 16), (s.getV x).toNat = k.val →
    (∃ t, exec (.skipKeyPressed x) s = .next t ∧ t.pc = (if s.getKey k = true then s.pc + 2 else s.pc) ∧
      OnlyChanges [.pc] s t) ∧
    (∃ t, exec (.skipKeyNotPressed x) s = .next t ∧ t.pc = (if s.getKey k = true then s.pc else s.pc + 2) ∧
      OnlyChanges [.pc] s t)) ∧
  (∀ (x : Reg) (s : State), 0xF < (s.getV x).toNat →
    (∃ t, exec (.skipKeyPressed x) s = .next t ∧
      TakesFault .keyIndexError ((s.getV x).setWidth 16) s t) ∧
    (∃ t, exec (.skipKeyNotPressed x) s = .next t ∧
      TakesFault .keyIndexError ((s.getV x).setWidth 16) s t)) ∧
  ∀ v : Byte, ∃ k, keyIndex .mask v = some k ∧ k.val = v.toNat % 16

/-- `wait-key` (R163): with keys pressed, the index of one of them is stored (which one is OPEN, D7, log entry 3; a held key counts,
D28); with none, `pc` goes back by 2. -/
def Obligations.WaitKeyStoresAPressedKeyOrRewinds : Prop :=
  (∀ w : Word, opField w = 0xF → nnField w = 0x0A → decode w = .ok (.waitKey (xField w))) ∧
  (∀ (x : Reg) (s : State), (∃ k, s.getKey k = true) →
    ∃ k t, s.getKey k = true ∧ exec (.waitKey x) s = .next t ∧ (t.getV x).toNat = k.val ∧
      KeepsRegsBut [x] s t ∧ OnlyChanges [.v, .freeDraws] s t) ∧
  ∀ (x : Reg) (s : State), (∀ k, s.getKey k = false) →
    ∃ t, exec (.waitKey x) s = .next t ∧ t.pc = s.pc - 2 ∧ OnlyChanges [.pc] s t

/-- A `wait-key` with no key pressed is an infinite run: after any number of steps the state is the same, and with ticks between
the steps only the timers differ (R247). -/
def Obligations.WaitKeyWithoutAKeyRunsForever : Prop :=
  ∀ (s : State) (x : Reg), s.Running → s.Fetches (.waitKey x) → (∀ k, s.getKey k = false) →
    (∀ n, Host.Core.run Sys2Proof.core n s = .next s) ∧
    ∀ ts : List Transaction, (∀ t ∈ ts, t.StepOrTick) →
      ∃ t, runSchedule ts s = .next t ∧ OnlyChanges [.dt, .st] s t

/-- `get-delay`, `set-delay`, `set-sound` (R164 to R166), and the tone (R212). -/
def Obligations.TimerMovesCopyTheByte : Prop :=
  (∀ w : Word, opField w = 0xF → (nnField w = 0x07 → decode w = .ok (.getDelay (xField w))) ∧
    (nnField w = 0x15 → decode w = .ok (.setDelay (xField w))) ∧
    (nnField w = 0x18 → decode w = .ok (.setSound (xField w)))) ∧
  ∀ (x : Reg) (s : State),
    (∃ t, exec (.getDelay x) s = .next t ∧ t.getV x = s.dt ∧ KeepsRegsBut [x] s t ∧ OnlyChanges [.v] s t) ∧
    (∃ t, exec (.setDelay x) s = .next t ∧ t.dt = s.getV x ∧ OnlyChanges [.dt] s t) ∧
    (∃ t, exec (.setSound x) s = .next t ∧ t.st = s.getV x ∧ (toneOut t = true ↔ (s.getV x).toNat ≠ 0) ∧
      OnlyChanges [.st] s t)

/-- The tick (R210): both timers go down by 1 and stop at 0, so that `n` ticks take `n` away; a halted block ignores it; the
tone sounds exactly while `ST` is not 0 (R212). The floor at 0 and the tone are the spec's decisions D9 and D11, from general
knowledge. -/
def Obligations.TicksCountBothTimersDownToZero : Prop :=
  (∀ s : State, s.Running → (tick s).dt.toNat = s.dt.toNat - 1 ∧ (tick s).st.toNat = s.st.toNat - 1 ∧
    OnlyChanges [.dt, .st] s (tick s)) ∧
  (∀ s : State, s.Halted → tick s = s) ∧
  (∀ (s : State) (n : Nat), s.Running → ∃ t, runSchedule (List.replicate n .tick) s = .next t ∧
    t.dt.toNat = s.dt.toNat - n ∧ t.st.toNat = s.st.toNat - n) ∧
  ∀ s : State, toneOut s = true ↔ s.st.toNat ≠ 0

/-- A tick before a step and a tick after it give the same state, when the step runs an instruction that uses no timer and
raises no fault (R211, R248). -/
def Obligations.TicksCommuteWithStepsThatUseNoTimer : Prop :=
  ∀ (s t : State) (i : Instr), s.Running → s.Fetches i → ¬i.UsesTimers → step s = .next t → t.Running →
    step (tick s) = .next (tick t)

/-- No step reads `ST` (R30): states that differ in `ST` alone step to states that differ in `ST` alone. -/
def Obligations.NoStepReadsTheSoundTimer : Prop :=
  ∀ (s : State) (b : Byte), ∃ t t', step s = .next t ∧ step (s.setSt b) = .next t' ∧ OnlyChanges [.st] t t'

/-! ## Index register and memory (44_index_memory.md) -/

/-- `set-index`, `add-index`, `font-char` (R180 to R182). -/
def Obligations.IndexInstructionsSetI : Prop :=
  (∀ w : Word, (opField w = 0xA → decode w = .ok (.setIndex (nnnField w))) ∧
    (opField w = 0xF → nnField w = 0x1E → decode w = .ok (.addIndex (xField w))) ∧
    (opField w = 0xF → nnField w = 0x29 → decode w = .ok (.fontChar (xField w)))) ∧
  (∀ (nnn : Addr) (s : State),
    ∃ t, exec (.setIndex nnn) s = .next t ∧ t.i.toNat = nnn.toNat ∧ OnlyChanges [.i] s t) ∧
  ∀ (x : Reg) (s : State),
    (∃ t, exec (.addIndex x) s = .next t ∧ t.i.toNat = (s.i.toNat + (s.getV x).toNat) % 65536 ∧
      (t.getV Reg.vf).toNat = (if 0xFFFF < s.i.toNat + (s.getV x).toNat then 1 else 0) ∧
      KeepsRegsBut [Reg.vf] s t ∧ OnlyChanges [.i, .v] s t) ∧
    (∃ t, exec (.fontChar x) s = .next t ∧ t.i.toNat = 0x50 + 5 * ((s.getV x).toNat % 16) ∧
      OnlyChanges [.i] s t)

/-- `bcd` (R183): three digits at `I`, `I + 1`, `I + 2`, or the fault (R201; that its operand is recorded is the model's
choice, log entry 7). -/
def Obligations.BcdStoresThreeDigits : Prop :=
  (∀ w : Word, opField w = 0xF → nnField w = 0x33 → decode w = .ok (.bcd (xField w))) ∧
  (∀ (x : Reg) (s : State), s.i.toNat + 2 ≤ 0xFFF →
    ∃ t, exec (.bcd x) s = .next t ∧
      (Memory.read t.mem s.i.toNat).toNat = (s.getV x).toNat / 100 ∧
      (Memory.read t.mem (s.i.toNat + 1)).toNat = (s.getV x).toNat / 10 % 10 ∧
      (Memory.read t.mem (s.i.toNat + 2)).toNat = (s.getV x).toNat % 10 ∧
      KeepsMemoryOutside s.i.toNat 3 s t ∧ OnlyChanges [.mem] s t) ∧
  ∀ (x : Reg) (s : State), 0xFFF < s.i.toNat + 2 →
    ∃ t, exec (.bcd x) s = .next t ∧ TakesFault .memoryBoundsError s.i s t

/-- `store-regs` (R184): `V0` to `V[x]` at `I` to `I + x`, or the fault (R201; that its operand is recorded is the model's
choice, log entry 7); `I` stays. -/
def Obligations.StoreRegsCopiesRegistersToMemory : Prop :=
  (∀ w : Word, opField w = 0xF → nnField w = 0x55 → decode w = .ok (.storeRegs (xField w))) ∧
  (∀ (x : Reg) (s : State), s.i.toNat + x.val ≤ 0xFFF →
    ∃ t, exec (.storeRegs x) s = .next t ∧
      (∀ k : Reg, k ≤ x → Memory.read t.mem (s.i.toNat + k.val) = s.getV k) ∧
      KeepsMemoryOutside s.i.toNat (x.val + 1) s t ∧ OnlyChanges [.mem] s t) ∧
  ∀ (x : Reg) (s : State), 0xFFF < s.i.toNat + x.val →
    ∃ t, exec (.storeRegs x) s = .next t ∧ TakesFault .memoryBoundsError s.i s t

/-- `load-regs` (R185): `V0` to `V[x]` from `I` to `I + x`, or the fault (R201; that its operand is recorded is the
model's choice, log entry 7); the registers above `x`, and `I`, stay. -/
def Obligations.LoadRegsCopiesMemoryToRegisters : Prop :=
  (∀ w : Word, opField w = 0xF → nnField w = 0x65 → decode w = .ok (.loadRegs (xField w))) ∧
  (∀ (x : Reg) (s : State), s.i.toNat + x.val ≤ 0xFFF →
    ∃ t, exec (.loadRegs x) s = .next t ∧
      (∀ k : Reg, k ≤ x → t.getV k = Memory.read s.mem (s.i.toNat + k.val)) ∧
      (∀ k : Reg, x < k → t.getV k = s.getV k) ∧ OnlyChanges [.v] s t) ∧
  ∀ (x : Reg) (s : State), 0xFFF < s.i.toNat + x.val →
    ∃ t, exec (.loadRegs x) s = .next t ∧ TakesFault .memoryBoundsError s.i s t

/-- The round trip (R186): after `store-regs Vx`, a `load-regs Vx` with the same `I` and the stored bytes untouched gives `V0`
to `V[x]` the values they had. The condition on the bytes is the spec's own ("provided no other write"). -/
def Obligations.StoreThenLoadRestoresRegisters : Prop :=
  ∀ (x : Reg) (s : State), s.i.toNat + x.val ≤ 0xFFF →
    ∃ u, exec (.storeRegs x) s = .next u ∧
      ∀ s' : State, s'.i = s.i →
        (∀ k : Reg, k ≤ x → Memory.read s'.mem (s.i.toNat + k.val) = Memory.read u.mem (s.i.toNat + k.val)) →
        ∃ t, exec (.loadRegs x) s' = .next t ∧ ∀ k : Reg, k ≤ x → t.getV k = s.getV k

/-- A store is seen by the next fetch (R65, R246): after a step that runs `store-regs`, where the stored bytes cover the next
instruction word, the next fetch gives the registers stored there. -/
def Obligations.StoredBytesAreFetchedNext : Prop :=
  ∀ (s : State) (x k : Reg), s.Running → s.Fetches (.storeRegs x) → s.i.toNat + x.val ≤ 0xFFF →
    ∀ h : k.val + 1 < 16, k.val + 1 ≤ x.val → s.pc.toNat + 2 = s.i.toNat + k.val →
      ∃ t, step s = .next t ∧ t.Running ∧ fetch t = some (wordOfBytes (s.getV k) (s.getV ⟨k.val + 1, h⟩))

/-! ## The whole machine -/

/-- The writers of R23 (the draws of log entries 2 to 4 beside them): an instruction that raises no fault changes only the
components, the registers and the bytes that its row of the table names, a tick only the timers, and a key write only the keys. -/
def Obligations.OnlyTheNamedWritersWrite : Prop :=
  (∀ (i : Instr) (s t : State), s.Running → exec i s = .next t → t.Running →
    OnlyChanges i.writes s t ∧ (∀ r, ¬i.writesReg r → t.getV r = s.getV r) ∧
      KeepsMemoryOutside s.i.toNat i.dataBytes s t) ∧
  (∀ (x : Reg) (s t : State), exec (.waitKey x) s = .next t → (∀ k, s.getKey k = false) →
    ∀ r, t.getV r = s.getV r) ∧
  (∀ s : State, OnlyChanges [.dt, .st] s (tick s)) ∧
  ∀ (s : State) (ks : BitVec 16), OnlyChanges [.keys] s (keysIn ks s)

/-- Every step keeps the invariant: canonical memory, a legal `STATUS` and fault record, bounded `pc` and return addresses (R20,
R26, R34, R35). -/
def Obligations.EveryStepKeepsTheInvariant : Prop :=
  ∀ s t : State, s.Inv → step s = .next t → t.Inv

/-- The state after reset meets the invariant. -/
def Obligations.ResetMeetsTheInvariant : Prop := State.reset.Inv

/-- Every schedule of steps, ticks and key writes, in any order and with any random bytes, keeps the invariant, and every run meets
it, whatever state its load found (R211, R219; the state after a failed load is log entry 9). -/
def Obligations.EveryScheduleKeepsTheInvariant : Prop :=
  (∀ (ts : List Transaction) (s : State), s.Inv → ∃ t, runSchedule ts s = .next t ∧ t.Inv) ∧
  ∀ (r : Run) (s : State), r.Admissible → ∃ t, r.result s = .next t ∧ t.Inv

/-- No step takes `pc` above 0x10FE, so that `pc` never wraps (R26), from any state whose `pc` and return addresses are in the
bounds; the state after reset is one. -/
def Obligations.PcNeverPasses10FE : Prop :=
  State.reset.PcBounded ∧
  (∀ s t : State, s.PcBounded → step s = .next t → t.PcBounded) ∧
  ∀ (n : Nat) (s t : State), s.PcBounded → Host.Core.run Sys2Proof.core n s = .next t → t.PcBounded

/-- Stale stack entries are unobservable (R28): states that agree on the entries in use, and differ in the others, step to states
that agree so again (the spec's decision D15). -/
def Obligations.StaleStackEntriesAreUnobservable : Prop :=
  ∀ s s' : State, OnlyChanges [.stack] s s' →
    (∀ k : Fin 16, k.val < s.sp.val → s'.getStack k = s.getStack k) →
    ∃ t t', step s = .next t ∧ step s' = .next t' ∧ OnlyChanges [.stack] t t' ∧
      ∀ k : Fin 16, k.val < t.sp.val → t'.getStack k = t.getStack k

/-- `load` (R240): every component at its reset value, the font, the image, and the OPEN MEM_INIT in every other byte (D12, D30);
the bytes of the font are in `FontTableHoldsTheGlyphs`; and `STATUS` and the fault record after a load that fails. -/
def Obligations.LoadLeavesTheResetState : Prop :=
  (∀ (memInit : Nat → Byte) (image : List Byte) (rest s : State), image.length ≤ 3584 →
    ∃ t, load memInit image rest s = t ∧
      (∀ r, t.getV r = 0) ∧ t.i = 0 ∧ t.pc = 0x200 ∧ (∀ k, t.getStack k = 0) ∧ t.sp = 0 ∧ t.dt = 0 ∧ t.st = 0 ∧
      (∀ r c, OnGrid r c → Bitmap.cell t.disp r c = false) ∧ (∀ k, t.getKey k = false) ∧
      t.status = { state := .run, code := none } ∧ t.faultPc = 0 ∧ t.faultWord = 0 ∧
      (∀ k < 80, Memory.read t.mem (0x50 + k) = Config.fontBytes.getD k 0) ∧
      (∀ k (h : k < image.length), Memory.read t.mem (0x200 + k) = image[k]) ∧
      ∀ a < 4096, ¬(0x50 ≤ a ∧ a < 0xA0) → ¬(0x200 ≤ a ∧ a < 0x200 + image.length) →
        Memory.read t.mem a = memInit a) ∧
  ∀ (memInit : Nat → Byte) (image : List Byte) (rest s : State), 3584 < image.length →
    ∃ t, load memInit image rest s = t ∧ t.faultPc = 0 ∧ t.faultWord = 0 ∧
      t.status = { state := .halted, code := some .loadError }

/-- An image longer than 3584 bytes halts the block with LoadError before any step runs, and no shorter one does (R241). The rest
of the state is any (D30, log entry 9). -/
def Obligations.AnOversizedImageIsALoadError : Prop :=
  ∀ (memInit : Nat → Byte) (image : List Byte) (rest s : State),
    (image.length ≤ 3584 → ∃ t, load memInit image rest s = t ∧ t.Running) ∧
    (3585 ≤ image.length →
      ∃ t, load memInit image rest s = t ∧
        t.status = { state := .halted, code := some .loadError } ∧ step t = .next t)

/-- Execution starts at 0x200 (R243): after a load, the first fetch gives the first two bytes of the image. -/
def Obligations.ExecutionStartsAtTheFirstImageWord : Prop :=
  ∀ (memInit : Nat → Byte) (hi lo : Byte) (image : List Byte) (rest s : State), image.length ≤ 3582 →
    ∃ t, load memInit (hi :: lo :: image) rest s = t ∧ t.Running ∧
      fetch t = some (wordOfBytes hi lo)

/-- `State.reset` is the state after the load of an empty image, with the model's choice of MEM_INIT (log entry 1). -/
def Obligations.ResetIsTheLoadOfAnEmptyImage : Prop :=
  ∀ rest : State, load (fun _ => 0) [] rest State.reset = State.reset

/-- A `keys_in` write sets every key from its bit, and nothing else (R32, R38). -/
def Obligations.KeysInWritesTheWholeVector : Prop :=
  ∀ (s : State) (ks : BitVec 16), s.Running →
    (∀ k : Fin 16, (keysIn ks s).getKey k = ks.getLsbD k.val) ∧ OnlyChanges [.keys] s (keysIn ks s)

/-- The self-loop end (R251 (b), the spec's decision D24): every later step leaves the state unchanged, except that ticks still
decrement the timers. -/
def Obligations.TheSelfLoopEndIsStable : Prop :=
  ∀ s : State, s.SelfLoopEnd →
    step s = .next s ∧
    ∀ ts : List Transaction, (∀ t ∈ ts, t.StepOrTick) →
      ∃ t, runSchedule ts s = .next t ∧ OnlyChanges [.dt, .st] s t ∧ t.SelfLoopEnd

/-! ## What the host sees (10_state.md R31, R34, R35, R38, 20_memory.md R52) -/

/-- `status_out` (R38): `STATUS.state` is 0 while the block runs and 1 while it is halted, `STATUS.code` is 0 for NONE and the number of
R200 for each fault, and the fault record is shown as it stands (R34, R35; the numbers are the spec's decision D20). -/
def Obligations.StatusOutShowsTheCodes : Prop :=
  ∀ s : State,
    (s.Running → (statusOut s).state = 0) ∧ (s.Halted → (statusOut s).state = 1) ∧
    (s.status.code = none → (statusOut s).code = 0) ∧
    (s.status.code = some .loadError → (statusOut s).code = 1) ∧
    (s.status.code = some .fetchError → (statusOut s).code = 2) ∧
    (s.status.code = some .decodeError → (statusOut s).code = 3) ∧
    (s.status.code = some .stackOverflow → (statusOut s).code = 4) ∧
    (s.status.code = some .stackUnderflow → (statusOut s).code = 5) ∧
    (s.status.code = some .memoryBoundsError → (statusOut s).code = 6) ∧
    (s.status.code = some .keyIndexError → (statusOut s).code = 7) ∧
    (statusOut s).faultPc = s.faultPc ∧ (statusOut s).faultWord = s.faultWord

/-- `disp_out` (R31, R38): 2048 cells in row-major order, element `r * 64 + c` being the cell in row `r`, column `c`. The dimensions are
the canonical ones, log entry 12. -/
def Obligations.DispOutIsRowMajor : Prop :=
  ∀ s : State, (dispOut s).length = 2048 ∧
    ∀ r c, OnGrid r c → (dispOut s)[r * 64 + c]? = some (Bitmap.cell s.disp r c)

/-- The 80 bytes of R52, at 0x050 to 0x09F after reset and after every load that is accepted. The values are the spec's, from general
knowledge (D19), log entry 14. -/
def Obligations.FontTableHoldsTheGlyphs : Prop :=
  let table : List Byte :=
    [0xF0, 0x90, 0x90, 0x90, 0xF0] ++ [0x20, 0x60, 0x20, 0x20, 0x70] ++
    [0xF0, 0x10, 0xF0, 0x80, 0xF0] ++ [0xF0, 0x10, 0xF0, 0x10, 0xF0] ++
    [0x90, 0x90, 0xF0, 0x10, 0x10] ++ [0xF0, 0x80, 0xF0, 0x10, 0xF0] ++
    [0xF0, 0x80, 0xF0, 0x90, 0xF0] ++ [0xF0, 0x10, 0x20, 0x40, 0x40] ++
    [0xF0, 0x90, 0xF0, 0x90, 0xF0] ++ [0xF0, 0x90, 0xF0, 0x10, 0xF0] ++
    [0xF0, 0x90, 0xF0, 0x90, 0x90] ++ [0xE0, 0x90, 0xE0, 0x90, 0xE0] ++
    [0xF0, 0x80, 0x80, 0x80, 0xF0] ++ [0xE0, 0x90, 0x90, 0x90, 0xE0] ++
    [0xF0, 0x80, 0xF0, 0x80, 0xF0] ++ [0xF0, 0x80, 0xF0, 0x80, 0x80]
  Memory.readBytes State.reset.mem 0x50 80 = table ∧
  ∀ (memInit : Nat → Byte) (image : List Byte) (rest s : State), image.length ≤ 3584 →
    Memory.readBytes (load memInit image rest s).mem 0x50 80 = table

/-! ## The host's step (10_state.md R38, 60_exceptions.md R215, R219) -/

/-- In the host's step, `random-and` samples the byte that the host drives on `rand_in` during it, and draws no free value (R38, R132,
R215, R219; the byte's place in State is log entry 2). -/
def Obligations.RandomAndSamplesTheByteOfItsStep : Prop :=
  ∀ (s : State) (x : Reg) (nn b : Byte), s.Running → s.Fetches (.randomAnd x nn) →
    ∃ t, transact (.step b) s = .next t ∧ t.getV x = b &&& nn ∧ t.pc = s.pc + 2 ∧ KeepsRegsBut [x] s t ∧
      OnlyChanges [.v, .pc] s t

/-- No step but one of `random-and` reads `rand_in` (R37): whatever byte the host drives, its step is the plain step. -/
def Obligations.OnlyRandomAndReadsTheRandomByte : Prop :=
  ∀ (s : State) (b : Byte), (∀ x nn, ¬s.Fetches (.randomAnd x nn)) → transact (.step b) s = step s

/-- A new run is the way out of the halted state (R204, R219, R242): after its load, if the image fits, the block runs, and what the
state before the load held makes no difference to the run, but for the model's own count of free draws (log entry 4). -/
def Obligations.ARunStartsAfresh : Prop :=
  ∀ (r : Run) (s s' : State),
    (r.image.length ≤ 3584 → (r.start s).Running) ∧ (s'.freeDraws = s.freeDraws → r.result s' = r.result s)
end

