-- ==== Sys2Proof/Laws/Compositor.lean ====
section
/-! SUPPORT. The compositor cell by cell (spec 42_display.md R140, R142), for a display of any dimensions. -/

namespace Sys2Proof.Machine

variable {w h : Nat}

/-- A display is its cells. -/
theorem Bitmap.ext_cells {d e : Bitmap w h}
    (hc : ∀ r < h, ∀ c < w, Bitmap.cell d r c = Bitmap.cell e r c) : d = e := by
  refine Vector.ext fun r hr => BitVec.eq_of_getLsbD_eq fun c hw => ?_
  simpa [Bitmap.cell, hr] using hc r hr c hw

@[simp] theorem Bitmap.cell_clear (r c : Nat) : Bitmap.cell (Bitmap.clear w h) r c = false := by
  simp only [Bitmap.cell, Bitmap.clear, Vector.getElem?_replicate]
  split <;> simp

theorem Bitmap.cell_toggle (d : Bitmap w h) {r c : Nat} (hr : r < h) (hc : c < w) (r' c' : Nat) :
    Bitmap.cell (Bitmap.toggle d r c) r' c' = (Bitmap.cell d r' c' ^^ decide (r' = r ∧ c' = c)) := by
  by_cases e : r' = r
  · subst e
    simp only [Bitmap.cell, Bitmap.toggle, Vector.getElem?_setIfInBounds_self, hr, if_true]
    simp [BitVec.getLsbD_twoPow, hc, eq_comm]
  · simp [Bitmap.cell, Bitmap.toggle, Vector.getElem?_setIfInBounds_ne (Ne.symm e), e]

/-- Every pixel of the list lies on the display. -/
def OnDisplay (w h : Nat) (ps : List (Nat × Nat)) : Prop := ∀ p ∈ ps, p.1 < h ∧ p.2 < w

/-- A cell is toggled once for each time it is in the list. -/
theorem cell_foldl_plot (ps : List (Nat × Nat)) (hp : OnDisplay w h ps) (d : Bitmap w h) (b : Bool)
    (r c : Nat) :
    Bitmap.cell (ps.foldl plot (d, b)).1 r c =
      (Bitmap.cell d r c ^^ decide (ps.count (r, c) % 2 = 1)) := by
  induction ps generalizing d b with
  | nil => simp
  | cons p ps ih =>
    have h1 := hp p (by simp)
    rw [List.foldl_cons, plot, ih (fun q hq => hp q (by simp [hq])), Bitmap.cell_toggle d h1.1 h1.2]
    by_cases e : p = (r, c)
    · subst e
      rw [List.count_cons_self]
      rcases Nat.mod_two_eq_zero_or_one (ps.count (r, c)) with hodd | hodd <;>
        simp [hodd, Nat.add_mod]
    · have h2 : ¬(r = p.1 ∧ c = p.2) := fun ⟨h, h'⟩ => e (Prod.ext h.symm h'.symm)
      simp [e, h2]

/-- When no cell is toggled twice, the collision flag says whether some cell of the list was lit. -/
theorem flag_foldl_plot (ps : List (Nat × Nat)) (hp : OnDisplay w h ps) (hn : ps.Nodup)
    (d : Bitmap w h) (b : Bool) :
    (ps.foldl plot (d, b)).2 = (b || ps.any fun p => Bitmap.cell d p.1 p.2) := by
  induction ps generalizing d b with
  | nil => simp
  | cons p ps ih =>
    have h1 := hp p (by simp)
    rw [List.nodup_cons] at hn
    rw [List.foldl_cons, plot, ih (fun q hq => hp q (by simp [hq])) hn.2]
    have : (ps.any fun q => Bitmap.cell (Bitmap.toggle d p.1 p.2) q.1 q.2) =
        ps.any fun q => Bitmap.cell d q.1 q.2 := by
      rw [Bool.eq_iff_iff]
      simp only [List.any_eq_true]
      refine exists_congr fun q => and_congr_right fun hq => ?_
      have : ¬(q.1 = p.1 ∧ q.2 = p.2) := fun ⟨h, h'⟩ => hn.1 (Prod.ext h h' ▸ hq)
      rw [Bitmap.cell_toggle d h1.1 h1.2]
      simp [this]
    simp [this, Bool.or_assoc]

theorem mem_rowPixels (cx py : Nat) (row : Byte) (p : Nat × Nat) :
    p ∈ rowPixels w cx py row ↔
      ∃ c < 8, row.getLsbD (7 - c) = true ∧ p = (py, (cx + c) % w) := by
  simp only [rowPixels, List.mem_map, List.mem_filter, List.mem_range]
  exact ⟨fun ⟨c, ⟨h1, h2⟩, e⟩ => ⟨c, h1, h2, e.symm⟩, fun ⟨c, h1, h2, e⟩ => ⟨c, ⟨h1, h2⟩, e.symm⟩⟩

/-- Row `r` of the sprite puts the pixel of column offset `c` at `((cy + r) mod h, (cx + c) mod w)` (R142). -/
theorem mem_spritePixels (cx cy : Nat) (rows : List Byte) (p : Nat × Nat) :
    p ∈ spritePixels w h cx cy rows ↔
      ∃ r, ∃ hr : r < rows.length, ∃ c < 8,
        rows[r].getLsbD (7 - c) = true ∧ p = ((cy + r) % h, (cx + c) % w) := by
  induction rows generalizing cy with
  | nil => simp [spritePixels]
  | cons row rows ih =>
    rw [spritePixels, List.mem_append, mem_rowPixels, ih]
    constructor
    · rintro (⟨c, h1, h2, e⟩ | ⟨r, hr, c, h1, h2, e⟩)
      · exact ⟨0, by simp, c, h1, by simpa using h2, by simpa using e⟩
      · exact ⟨r + 1, by simpa using hr, c, h1, by simpa using h2, by
          rw [e]; congr 2; omega⟩
    · rintro ⟨r, hr, c, h1, h2, e⟩
      cases r with
      | zero => exact .inl ⟨c, h1, by simpa using h2, by simpa using e⟩
      | succ r =>
        refine .inr ⟨r, by simpa using hr, c, h1, by simpa using h2, ?_⟩
        rw [e]; congr 2; omega

theorem spritePixels_onDisplay (hw : 0 < w) (hh : 0 < h) (cx cy : Nat) (rows : List Byte) :
    OnDisplay w h (spritePixels w h cx cy rows) := by
  intro p hp
  obtain ⟨r, hr, c, -, -, rfl⟩ := (mem_spritePixels cx cy rows p).1 hp
  exact ⟨Nat.mod_lt _ hh, Nat.mod_lt _ hw⟩

/-- Two numbers that differ by less than `n` and agree modulo `n` are equal. -/
theorem eq_of_mod_eq_of_lt {n a b k : Nat} (ha : a < k) (hb : b < k) (hk : k ≤ n) (base : Nat)
    (h : (base + a) % n = (base + b) % n) : a = b := by
  have h' : a ≡ b [MOD n] := Nat.ModEq.add_left_cancel' base h
  rwa [Nat.ModEq, Nat.mod_eq_of_lt (by omega), Nat.mod_eq_of_lt (by omega)] at h'

/-- On a display no smaller than the sprite, no cell is toggled twice (R142, D31). -/
theorem spritePixels_nodup (hw : 8 ≤ w) (cx cy : Nat) (rows : List Byte) (hh : rows.length ≤ h) :
    (spritePixels w h cx cy rows).Nodup := by
  induction rows generalizing cy with
  | nil => simp [spritePixels]
  | cons row rows ih =>
    rw [spritePixels, List.nodup_append]
    simp only [List.length_cons] at hh
    refine ⟨?_, ih _ (by omega), ?_⟩
    · refine List.Nodup.map_on ?_ (List.nodup_range.filter _)
      intro a ha b hb e
      have ha' : a < 8 := List.mem_range.1 (List.mem_of_mem_filter ha)
      have hb' : b < 8 := List.mem_range.1 (List.mem_of_mem_filter hb)
      exact eq_of_mod_eq_of_lt ha' hb' hw cx (Prod.ext_iff.1 e).2
    · rintro p hp q hq rfl
      obtain ⟨c, -, -, rfl⟩ := (mem_rowPixels cx _ row p).1 hp
      obtain ⟨r, hr, c', -, -, e⟩ := (mem_spritePixels cx (cy + 1) rows _).1 hq
      have e1 : (cy + 0) % h = (cy + (r + 1)) % h := by
        have := (Prod.ext_iff.1 e).1
        simpa [Nat.add_assoc, Nat.add_comm 1 r] using this
      have := eq_of_mod_eq_of_lt (k := rows.length + 1) (by omega) (by omega) hh cy e1
      omega

end Sys2Proof.Machine
end

