-- ==== Sys2Proof/Laws/Decode.lean ====
section
/-! SUPPORT. The fields of packed words, and the word of two bytes. -/

namespace Sys2Proof

theorem packXYN_toNat (op : BitVec 4) (x y : Reg) (n : Nat) :
    (packXYN op x y n).toNat = op.toNat * 4096 + x.val * 256 + y.val * 16 + n % 16 := by
  have h1 : x.val < 2 ^ 4 := x.isLt
  have h2 : y.val < 2 ^ 4 := y.isLt
  have h3 : n % 16 < 2 ^ 4 := Nat.mod_lt _ (by decide)
  simp only [packXYN, regBits, BitVec.toNat_append, BitVec.toNat_ofFin, BitVec.toNat_ofNat]
  rw [← Nat.shiftLeft_add_eq_or_of_lt h1, ← Nat.shiftLeft_add_eq_or_of_lt h2,
    ← Nat.shiftLeft_add_eq_or_of_lt h3]
  simp only [Nat.shiftLeft_eq]
  omega

theorem packXNN_toNat (op : BitVec 4) (x : Reg) (nn : Byte) :
    (packXNN op x nn).toNat = op.toNat * 4096 + x.val * 256 + nn.toNat := by
  have h1 : x.val < 2 ^ 4 := x.isLt
  simp only [packXNN, regBits, BitVec.toNat_append, BitVec.toNat_ofFin]
  rw [← Nat.shiftLeft_add_eq_or_of_lt h1, ← Nat.shiftLeft_add_eq_or_of_lt nn.isLt]
  simp only [Nat.shiftLeft_eq]
  omega

theorem packNNN_toNat (op : BitVec 4) (nnn : Addr) :
    (packNNN op nnn).toNat = op.toNat * 4096 + nnn.toNat := by
  simp only [packNNN, BitVec.toNat_append]
  rw [← Nat.shiftLeft_add_eq_or_of_lt nnn.isLt, Nat.shiftLeft_eq]

/-! ## Fields as numbers -/

theorem opField_toNat (w : Word) : (opField w).toNat = w.toNat / 4096 := by
  have := w.isLt
  simp only [opField, BitVec.extractLsb'_toNat, Nat.shiftRight_eq_div_pow]
  omega

theorem xField_val (w : Word) : (xField w).val = w.toNat / 256 % 16 := by
  simp [xField, Nat.shiftRight_eq_div_pow]

theorem yField_val (w : Word) : (yField w).val = w.toNat / 16 % 16 := by
  simp [yField, Nat.shiftRight_eq_div_pow]

theorem nField_eq (w : Word) : nField w = w.toNat % 16 := by
  simp [nField, BitVec.extractLsb'_toNat]

theorem nnField_toNat (w : Word) : (nnField w).toNat = w.toNat % 256 := by
  simp [nnField, BitVec.extractLsb'_toNat]

theorem nnnField_toNat (w : Word) : (nnnField w).toNat = w.toNat % 4096 := by
  simp [nnnField, BitVec.extractLsb'_toNat]

theorem nField_lt (w : Word) : nField w < 16 := by
  rw [nField_eq]
  exact Nat.mod_lt _ (by decide)

/-! ## Fields of packed words -/

@[simp] theorem opField_packXYN (op : BitVec 4) (x y : Reg) (n : Nat) : opField (packXYN op x y n) = op := by
  apply BitVec.eq_of_toNat_eq
  rw [opField_toNat, packXYN_toNat]
  omega

@[simp] theorem xField_packXYN (op : BitVec 4) (x y : Reg) (n : Nat) : xField (packXYN op x y n) = x := by
  apply Fin.ext
  rw [xField_val, packXYN_toNat]
  omega

@[simp] theorem yField_packXYN (op : BitVec 4) (x y : Reg) (n : Nat) : yField (packXYN op x y n) = y := by
  apply Fin.ext
  rw [yField_val, packXYN_toNat]
  omega

@[simp] theorem nField_packXYN (op : BitVec 4) (x y : Reg) (n : Nat) : nField (packXYN op x y n) = n % 16 := by
  rw [nField_eq, packXYN_toNat]
  omega

@[simp] theorem opField_packXNN (op : BitVec 4) (x : Reg) (nn : Byte) : opField (packXNN op x nn) = op := by
  apply BitVec.eq_of_toNat_eq
  rw [opField_toNat, packXNN_toNat]
  omega

@[simp] theorem xField_packXNN (op : BitVec 4) (x : Reg) (nn : Byte) : xField (packXNN op x nn) = x := by
  apply Fin.ext
  rw [xField_val, packXNN_toNat]
  omega

@[simp] theorem nnField_packXNN (op : BitVec 4) (x : Reg) (nn : Byte) : nnField (packXNN op x nn) = nn := by
  apply BitVec.eq_of_toNat_eq
  rw [nnField_toNat, packXNN_toNat]
  omega

@[simp] theorem opField_packNNN (op : BitVec 4) (nnn : Addr) : opField (packNNN op nnn) = op := by
  apply BitVec.eq_of_toNat_eq
  rw [opField_toNat, packNNN_toNat]
  omega

@[simp] theorem nnnField_packNNN (op : BitVec 4) (nnn : Addr) : nnnField (packNNN op nnn) = nnn := by
  apply BitVec.eq_of_toNat_eq
  rw [nnnField_toNat, packNNN_toNat]
  omega

/-! ## The masks of the opcode table as fields -/

theorem and_F000 (w : Word) : w &&& 0xF000 = packNNN (opField w) 0 := by
  apply BitVec.eq_of_getLsbD_eq
  intro i hi
  simp only [packNNN, opField, BitVec.getLsbD_append, BitVec.getLsbD_and, BitVec.getLsbD_extractLsb']
  interval_cases i <;> simp

theorem and_F0FF (w : Word) : w &&& 0xF0FF = packXNN (opField w) 0 (nnField w) := by
  apply BitVec.eq_of_getLsbD_eq
  intro i hi
  simp only [packXNN, opField, nnField, regBits, BitVec.getLsbD_append, BitVec.getLsbD_and,
    BitVec.getLsbD_extractLsb']
  interval_cases i <;> simp

theorem and_F00F (w : Word) : w &&& 0xF00F = packXYN (opField w) 0 0 (nField w) := by
  apply BitVec.eq_of_getLsbD_eq
  intro i hi
  simp only [packXYN, opField, nField, regBits, BitVec.getLsbD_append, BitVec.getLsbD_and,
    BitVec.getLsbD_extractLsb', BitVec.ofNat_toNat, BitVec.setWidth_eq]
  interval_cases i <;> simp

theorem and_000F (w : Word) : w &&& 0x000F = packXYN 0 0 0 (nField w) := by
  apply BitVec.eq_of_getLsbD_eq
  intro i hi
  simp only [packXYN, nField, regBits, BitVec.getLsbD_append, BitVec.getLsbD_and,
    BitVec.getLsbD_extractLsb', BitVec.ofNat_toNat, BitVec.setWidth_eq]
  interval_cases i <;> simp

theorem and_00F0 (w : Word) : w &&& 0x00F0 = packXYN 0 0 (yField w) 0 := by
  apply BitVec.eq_of_getLsbD_eq
  intro i hi
  simp only [packXYN, yField, regBits, BitVec.getLsbD_append, BitVec.getLsbD_and, BitVec.ofFin_toFin,
    BitVec.getLsbD_extractLsb']
  interval_cases i <;> simp

theorem and_0F00 (w : Word) : w &&& 0x0F00 = packXYN 0 (xField w) 0 0 := by
  apply BitVec.eq_of_getLsbD_eq
  intro i hi
  simp only [packXYN, xField, regBits, BitVec.getLsbD_append, BitVec.getLsbD_and, BitVec.ofFin_toFin,
    BitVec.getLsbD_extractLsb']
  interval_cases i <;> simp

/-- The bytes of a word make the word again. -/
@[simp] theorem wordOfBytes_hiByte_loByte (w : Word) : wordOfBytes (hiByte w) (loByte w) = w := by
  apply BitVec.eq_of_toNat_eq
  have := w.isLt
  simp only [wordOfBytes, hiByte, loByte, BitVec.toNat_append, BitVec.extractLsb'_toNat]
  rw [← Nat.shiftLeft_add_eq_or_of_lt (Nat.mod_lt _ (by decide))]
  simp only [Nat.shiftLeft_eq, Nat.shiftRight_eq_div_pow]
  omega

theorem wordOfBytes_toNat (hi lo : Byte) : (wordOfBytes hi lo).toNat = hi.toNat * 256 + lo.toNat := by
  simp only [wordOfBytes, BitVec.toNat_append]
  rw [← Nat.shiftLeft_add_eq_or_of_lt lo.isLt, Nat.shiftLeft_eq]

end Sys2Proof
end

