-- ==== Sys2Proof/Laws/Memory.lean ====
section
/-! SUPPORT. The laws of memory: a read after a write, the canonical form kept by every operation, and equal memories are equal
lists. The read and write laws hold for every list, in canonical form or not. -/

namespace Sys2Proof.Machine

/-! ## Reading after one write -/

theorem Memory.read_filter_same (m : Memory) (a : Nat) :
    Memory.read (m.filter fun c => c.1 != a) a = Memory.unlisted a := by
  induction m with
  | nil => rfl
  | cons c m ih =>
    by_cases h : c.1 = a
    · simp [h, ih]
    · simp [h, Memory.read, ih]

theorem Memory.read_filter_ne (m : Memory) {a b : Nat} (hb : b ≠ a) :
    Memory.read (m.filter fun c => c.1 != a) b = Memory.read m b := by
  induction m with
  | nil => rfl
  | cons c m ih =>
    by_cases h : c.1 = a
    · have : c.1 ≠ b := fun e => hb (e.symm.trans h)
      simp [h, Memory.read, ih, Ne.symm hb]
    · simp [h, Memory.read, ih]

theorem Memory.read_insert_same (m : Memory) (a : Nat) (v : Byte) (h : ∀ c ∈ m, c.1 ≠ a) :
    Memory.read (Memory.insert a v m) a = v := by
  induction m with
  | nil => simp [Memory.insert, Memory.read]
  | cons c m ih =>
    have hc : c.1 ≠ a := h c (by simp)
    unfold Memory.insert
    split
    · simp [Memory.read]
    · simp [Memory.read, hc, ih fun d hd => h d (by simp [hd])]

theorem Memory.read_insert_ne (m : Memory) {a b : Nat} (v : Byte) (hb : b ≠ a) :
    Memory.read (Memory.insert a v m) b = Memory.read m b := by
  induction m with
  | nil => simp [Memory.insert, Memory.read, Ne.symm hb]
  | cons c m ih =>
    unfold Memory.insert
    split
    · simp [Memory.read, Ne.symm hb]
    · simp [Memory.read, ih]

@[simp] theorem Memory.read_write_same (m : Memory) (a : Nat) (v : Byte) :
    Memory.read (Memory.write m a v) a = v := by
  unfold Memory.write
  split
  · next h => rw [Memory.read_filter_same, h]
  · exact Memory.read_insert_same _ _ _ (by simp)

theorem Memory.read_write_ne (m : Memory) {a b : Nat} (v : Byte) (hb : b ≠ a) :
    Memory.read (Memory.write m a v) b = Memory.read m b := by
  unfold Memory.write
  split
  · exact Memory.read_filter_ne m hb
  · rw [Memory.read_insert_ne _ _ hb, Memory.read_filter_ne m hb]

theorem Memory.read_write (m : Memory) (a b : Nat) (v : Byte) :
    Memory.read (Memory.write m a v) b = if b = a then v else Memory.read m b := by
  split
  · next h => rw [h, Memory.read_write_same]
  · next h => exact Memory.read_write_ne m v h

/-! ## Reading after a block of writes, and a block of reads -/

theorem Memory.read_writeBytes (m : Memory) (base : Nat) (bs : List Byte) (a : Nat) :
    Memory.read (Memory.writeBytes m base bs) a =
      if base ≤ a ∧ a < base + bs.length then bs.getD (a - base) 0 else Memory.read m a := by
  induction bs generalizing m base with
  | nil => simp [Memory.writeBytes]
  | cons b bs ih =>
    rw [Memory.writeBytes, ih, Memory.read_write]
    by_cases h : a = base
    · subst h; simp
    · by_cases h2 : base ≤ a ∧ a < base + (b :: bs).length
      · have h3 : base + 1 ≤ a ∧ a < base + 1 + bs.length := by simp at h2; omega
        obtain ⟨k, hk⟩ : ∃ k, a - base = k + 1 := ⟨a - base - 1, by omega⟩
        have hk' : a - (base + 1) = k := by omega
        rw [if_pos h2, if_pos h3, hk, hk']
        simp
      · have h3 : ¬(base + 1 ≤ a ∧ a < base + 1 + bs.length) := by simp at h2; omega
        rw [if_neg h2, if_neg h3, if_neg h]

/-- A byte outside the block is untouched. -/
theorem Memory.read_writeBytes_outside (m : Memory) {base a : Nat} (bs : List Byte)
    (h : a < base ∨ base + bs.length ≤ a) :
    Memory.read (Memory.writeBytes m base bs) a = Memory.read m a := by
  rw [Memory.read_writeBytes, if_neg (by omega)]

@[simp] theorem Memory.readBytes_length (m : Memory) (base count : Nat) :
    (Memory.readBytes m base count).length = count := by
  simp [Memory.readBytes]

theorem Memory.readBytes_getElem (m : Memory) (base count k : Nat)
    (h : k < (Memory.readBytes m base count).length) :
    (Memory.readBytes m base count)[k] = Memory.read m (base + k) := by
  simp [Memory.readBytes]

/-! ## The canonical form -/

theorem Memory.wf_iff (m : Memory) :
    Memory.wf m = true ↔
      (m.Pairwise fun c d => c.1 < d.1) ∧
        ∀ c ∈ m, c.1 < Config.memSize ∧ c.2 ≠ Memory.unlisted c.1 := by
  simp [Memory.wf]

theorem Memory.mem_insert {m : Memory} {a : Nat} {v : Byte} {c : Host.Cell} :
    c ∈ Memory.insert a v m ↔ c = (a, v) ∨ c ∈ m := by
  induction m with
  | nil => simp [Memory.insert]
  | cons d m ih =>
    unfold Memory.insert
    split
    · simp
    · simp only [List.mem_cons, ih]
      tauto

theorem Memory.insert_pairwise {m : Memory} {a : Nat} {v : Byte}
    (h : m.Pairwise fun c d => c.1 < d.1) (ha : ∀ c ∈ m, c.1 ≠ a) :
    (Memory.insert a v m).Pairwise fun c d => c.1 < d.1 := by
  induction m with
  | nil => simp [Memory.insert]
  | cons d m ih =>
    rw [List.pairwise_cons] at h
    have hd : d.1 ≠ a := ha d (by simp)
    unfold Memory.insert
    split
    · next hlt =>
      refine List.pairwise_cons.2 ⟨fun c hc => ?_, List.pairwise_cons.2 h⟩
      rcases List.mem_cons.1 hc with rfl | hc
      · exact hlt
      · exact lt_trans hlt (h.1 c hc)
    · refine List.pairwise_cons.2 ⟨fun c hc => ?_, ih h.2 fun c hc => ha c (by simp [hc])⟩
      rcases Memory.mem_insert.1 hc with rfl | hc
      · show d.1 < a
        omega
      · exact h.1 c hc

/-- A write inside the address space keeps the canonical form. -/
theorem Memory.write_wf {m : Memory} {a : Nat} {v : Byte} (h : Memory.wf m = true)
    (ha : a < Config.memSize) : Memory.wf (Memory.write m a v) = true := by
  rw [Memory.wf_iff] at h ⊢
  have hf : (m.filter fun c => c.1 != a).Pairwise fun c d => c.1 < d.1 := h.1.filter _
  unfold Memory.write
  split
  · exact ⟨hf, fun c hc => h.2 c (List.mem_of_mem_filter hc)⟩
  · next hv =>
    refine ⟨Memory.insert_pairwise hf (by simp), fun c hc => ?_⟩
    rcases Memory.mem_insert.1 hc with rfl | hc
    · exact ⟨ha, hv⟩
    · exact h.2 c (List.mem_of_mem_filter hc)

/-- A block of writes inside the address space keeps the canonical form. -/
theorem Memory.writeBytes_wf {m : Memory} {base : Nat} {bs : List Byte} (h : Memory.wf m = true)
    (hb : base + bs.length ≤ Config.memSize) : Memory.wf (Memory.writeBytes m base bs) = true := by
  induction bs generalizing m base with
  | nil => exact h
  | cons b bs ih =>
    simp only [List.length_cons] at hb
    exact ih (Memory.write_wf h (by omega)) (by omega)

theorem Memory.mem_tabulateUpTo {n : Nat} {f : Nat → Byte} {c : Host.Cell} :
    c ∈ Memory.tabulateUpTo n f ↔ c.1 < n ∧ c.2 = f c.1 ∧ c.2 ≠ Memory.unlisted c.1 := by
  simp only [Memory.tabulateUpTo, List.mem_map, List.mem_filter, List.mem_range, bne_iff_ne]
  constructor
  · rintro ⟨a, ⟨ha, hne⟩, rfl⟩
    exact ⟨ha, rfl, hne⟩
  · rintro ⟨h1, h2, h3⟩
    exact ⟨c.1, ⟨h1, h2 ▸ h3⟩, Prod.ext rfl h2.symm⟩

theorem Memory.tabulateUpTo_pairwise (n : Nat) (f : Nat → Byte) :
    (Memory.tabulateUpTo n f).Pairwise fun c d => c.1 < d.1 :=
  List.pairwise_map.2 (List.pairwise_lt_range.filter _)

theorem Memory.tabulateUpTo_wf {n : Nat} (hn : n ≤ Config.memSize) (f : Nat → Byte) :
    Memory.wf (Memory.tabulateUpTo n f) = true := by
  rw [Memory.wf_iff]
  refine ⟨Memory.tabulateUpTo_pairwise n f, fun c hc => ?_⟩
  obtain ⟨h1, -, h3⟩ := Memory.mem_tabulateUpTo.1 hc
  exact ⟨Nat.lt_of_lt_of_le h1 hn, h3⟩

theorem Memory.tabulate_wf (f : Nat → Byte) : Memory.wf (Memory.tabulate f) = true := by
  unfold Memory.tabulate
  exact Memory.tabulateUpTo_wf (Nat.le_refl _) f

theorem Memory.read_of_not_mem {m : Memory} {a : Nat} (h : ∀ c ∈ m, c.1 ≠ a) :
    Memory.read m a = Memory.unlisted a := by
  induction m with
  | nil => rfl
  | cons c m ih =>
    rw [Memory.read, if_neg (h c (by simp)), ih fun d hd => h d (by simp [hd])]

theorem Memory.read_of_mem {m : Memory} (h : m.Pairwise fun c d => c.1 < d.1) {c : Host.Cell}
    (hc : c ∈ m) : Memory.read m c.1 = c.2 := by
  induction m with
  | nil => cases hc
  | cons d m ih =>
    rw [List.pairwise_cons] at h
    rcases List.mem_cons.1 hc with rfl | hc
    · simp [Memory.read]
    · have : d.1 ≠ c.1 := by have := h.1 c hc; omega
      rw [Memory.read, if_neg this, ih h.2 hc]

theorem Memory.read_tabulateUpTo {n : Nat} (f : Nat → Byte) {a : Nat} (ha : a < n) :
    Memory.read (Memory.tabulateUpTo n f) a = f a := by
  by_cases h : f a = Memory.unlisted a
  · rw [Memory.read_of_not_mem, h]
    rintro c hc rfl
    obtain ⟨-, h2, h3⟩ := Memory.mem_tabulateUpTo.1 hc
    exact h3 (h2.trans h)
  · have hm : ((a, f a) : Host.Cell) ∈ Memory.tabulateUpTo n f := Memory.mem_tabulateUpTo.2 ⟨ha, rfl, h⟩
    exact Memory.read_of_mem (Memory.tabulateUpTo_pairwise n f) hm

theorem Memory.read_tabulate (f : Nat → Byte) {a : Nat} (ha : a < Config.memSize) :
    Memory.read (Memory.tabulate f) a = f a := by
  unfold Memory.tabulate
  exact Memory.read_tabulateUpTo f ha

/-- Where `f` is what the unlisted addresses read as, nothing is listed. -/
theorem Memory.tabulate_eq_nil {f : Nat → Byte} (h : ∀ a, f a = Memory.unlisted a) :
    Memory.tabulate f = [] := by
  unfold Memory.tabulate
  refine List.eq_nil_iff_forall_not_mem.2 fun c hc => ?_
  obtain ⟨-, h2, h3⟩ := Memory.mem_tabulateUpTo.1 hc
  exact h3 (h2.trans (h c.1))

/-- In canonical form a cell is listed exactly where the byte differs from what the unlisted address reads as. -/
theorem Memory.mem_iff_of_wf {m : Memory} (h : Memory.wf m = true) (c : Host.Cell) :
    c ∈ m ↔ Memory.read m c.1 = c.2 ∧ c.2 ≠ Memory.unlisted c.1 := by
  rw [Memory.wf_iff] at h
  refine ⟨fun hc => ⟨Memory.read_of_mem h.1 hc, (h.2 c hc).2⟩, fun ⟨hr, hne⟩ => ?_⟩
  by_contra hc
  have : ∀ d ∈ m, d.1 ≠ c.1 := by
    rintro d hd e
    have : d.2 = c.2 := by rw [← hr, ← e, Memory.read_of_mem h.1 hd]
    exact hc (by rwa [show c = d from Prod.ext e.symm this.symm])
  exact hne (by rw [← hr, Memory.read_of_not_mem this])

/-- Memories in canonical form that read alike are the same list. -/
theorem Memory.ext_of_wf {m m' : Memory} (h : Memory.wf m = true) (h' : Memory.wf m' = true)
    (hr : ∀ a, Memory.read m a = Memory.read m' a) : m = m' := by
  have hp := ((Memory.wf_iff _).1 h).1
  have hp' := ((Memory.wf_iff _).1 h').1
  have hperm : m.Perm m' := by
    refine (List.perm_ext_iff_of_nodup ?_ ?_).2 fun c => ?_
    · exact hp.imp fun hlt => fun e => by simp [e] at hlt
    · exact hp'.imp fun hlt => fun e => by simp [e] at hlt
    · rw [Memory.mem_iff_of_wf h, Memory.mem_iff_of_wf h', hr]
  exact hperm.eq_of_pairwise (fun a b _ _ h1 h2 => absurd h1 (by omega)) hp hp'

end Sys2Proof.Machine
end

