-- ==== Sys2Proof/Laws/State.lean ====
section
/-! SUPPORT. One lemma for each field after each named update of the state, and the accessors after each update. -/

namespace Sys2Proof.Machine

variable (s : State)

/-! ## setV -/

@[simp] theorem State.setV_mem (x : Reg) (b : Byte) : (s.setV x b).mem = s.mem := rfl
@[simp] theorem State.setV_v (x : Reg) (b : Byte) : (s.setV x b).v = s.v.set x b := rfl
@[simp] theorem State.setV_i (x : Reg) (b : Byte) : (s.setV x b).i = s.i := rfl
@[simp] theorem State.setV_pc (x : Reg) (b : Byte) : (s.setV x b).pc = s.pc := rfl
@[simp] theorem State.setV_stack (x : Reg) (b : Byte) : (s.setV x b).stack = s.stack := rfl
@[simp] theorem State.setV_sp (x : Reg) (b : Byte) : (s.setV x b).sp = s.sp := rfl
@[simp] theorem State.setV_dt (x : Reg) (b : Byte) : (s.setV x b).dt = s.dt := rfl
@[simp] theorem State.setV_st (x : Reg) (b : Byte) : (s.setV x b).st = s.st := rfl
@[simp] theorem State.setV_disp (x : Reg) (b : Byte) : (s.setV x b).disp = s.disp := rfl
@[simp] theorem State.setV_keys (x : Reg) (b : Byte) : (s.setV x b).keys = s.keys := rfl
@[simp] theorem State.setV_status (x : Reg) (b : Byte) : (s.setV x b).status = s.status := rfl
@[simp] theorem State.setV_faultPc (x : Reg) (b : Byte) : (s.setV x b).faultPc = s.faultPc := rfl
@[simp] theorem State.setV_faultWord (x : Reg) (b : Byte) : (s.setV x b).faultWord = s.faultWord := rfl
@[simp] theorem State.setV_faultInfo (x : Reg) (b : Byte) : (s.setV x b).faultInfo = s.faultInfo := rfl
@[simp] theorem State.setV_randIn (x : Reg) (b : Byte) : (s.setV x b).randIn = s.randIn := rfl
@[simp] theorem State.setV_freeDraws (x : Reg) (b : Byte) : (s.setV x b).freeDraws = s.freeDraws := rfl
@[simp] theorem State.setV_getStack (x : Reg) (b : Byte) (j : Fin 16) : (s.setV x b).getStack j = s.getStack j := rfl
@[simp] theorem State.setV_getKey (x : Reg) (b : Byte) (j : Fin 16) : (s.setV x b).getKey j = s.getKey j := rfl

/-! ## setRegs -/

@[simp] theorem State.setRegs_mem (v : Vector Byte 16) : (s.setRegs v).mem = s.mem := rfl
@[simp] theorem State.setRegs_v (v : Vector Byte 16) : (s.setRegs v).v = v := rfl
@[simp] theorem State.setRegs_i (v : Vector Byte 16) : (s.setRegs v).i = s.i := rfl
@[simp] theorem State.setRegs_pc (v : Vector Byte 16) : (s.setRegs v).pc = s.pc := rfl
@[simp] theorem State.setRegs_stack (v : Vector Byte 16) : (s.setRegs v).stack = s.stack := rfl
@[simp] theorem State.setRegs_sp (v : Vector Byte 16) : (s.setRegs v).sp = s.sp := rfl
@[simp] theorem State.setRegs_dt (v : Vector Byte 16) : (s.setRegs v).dt = s.dt := rfl
@[simp] theorem State.setRegs_st (v : Vector Byte 16) : (s.setRegs v).st = s.st := rfl
@[simp] theorem State.setRegs_disp (v : Vector Byte 16) : (s.setRegs v).disp = s.disp := rfl
@[simp] theorem State.setRegs_keys (v : Vector Byte 16) : (s.setRegs v).keys = s.keys := rfl
@[simp] theorem State.setRegs_status (v : Vector Byte 16) : (s.setRegs v).status = s.status := rfl
@[simp] theorem State.setRegs_faultPc (v : Vector Byte 16) : (s.setRegs v).faultPc = s.faultPc := rfl
@[simp] theorem State.setRegs_faultWord (v : Vector Byte 16) : (s.setRegs v).faultWord = s.faultWord := rfl
@[simp] theorem State.setRegs_faultInfo (v : Vector Byte 16) : (s.setRegs v).faultInfo = s.faultInfo := rfl
@[simp] theorem State.setRegs_randIn (v : Vector Byte 16) : (s.setRegs v).randIn = s.randIn := rfl
@[simp] theorem State.setRegs_freeDraws (v : Vector Byte 16) : (s.setRegs v).freeDraws = s.freeDraws := rfl
@[simp] theorem State.setRegs_getStack (v : Vector Byte 16) (j : Fin 16) : (s.setRegs v).getStack j = s.getStack j := rfl
@[simp] theorem State.setRegs_getKey (v : Vector Byte 16) (j : Fin 16) : (s.setRegs v).getKey j = s.getKey j := rfl

/-! ## setMem -/

@[simp] theorem State.setMem_mem (m : Memory) : (s.setMem m).mem = m := rfl
@[simp] theorem State.setMem_v (m : Memory) : (s.setMem m).v = s.v := rfl
@[simp] theorem State.setMem_i (m : Memory) : (s.setMem m).i = s.i := rfl
@[simp] theorem State.setMem_pc (m : Memory) : (s.setMem m).pc = s.pc := rfl
@[simp] theorem State.setMem_stack (m : Memory) : (s.setMem m).stack = s.stack := rfl
@[simp] theorem State.setMem_sp (m : Memory) : (s.setMem m).sp = s.sp := rfl
@[simp] theorem State.setMem_dt (m : Memory) : (s.setMem m).dt = s.dt := rfl
@[simp] theorem State.setMem_st (m : Memory) : (s.setMem m).st = s.st := rfl
@[simp] theorem State.setMem_disp (m : Memory) : (s.setMem m).disp = s.disp := rfl
@[simp] theorem State.setMem_keys (m : Memory) : (s.setMem m).keys = s.keys := rfl
@[simp] theorem State.setMem_status (m : Memory) : (s.setMem m).status = s.status := rfl
@[simp] theorem State.setMem_faultPc (m : Memory) : (s.setMem m).faultPc = s.faultPc := rfl
@[simp] theorem State.setMem_faultWord (m : Memory) : (s.setMem m).faultWord = s.faultWord := rfl
@[simp] theorem State.setMem_faultInfo (m : Memory) : (s.setMem m).faultInfo = s.faultInfo := rfl
@[simp] theorem State.setMem_randIn (m : Memory) : (s.setMem m).randIn = s.randIn := rfl
@[simp] theorem State.setMem_freeDraws (m : Memory) : (s.setMem m).freeDraws = s.freeDraws := rfl
@[simp] theorem State.setMem_getV (m : Memory) (r : Reg) : (s.setMem m).getV r = s.getV r := rfl
@[simp] theorem State.setMem_getStack (m : Memory) (j : Fin 16) : (s.setMem m).getStack j = s.getStack j := rfl
@[simp] theorem State.setMem_getKey (m : Memory) (j : Fin 16) : (s.setMem m).getKey j = s.getKey j := rfl

/-! ## setPc -/

@[simp] theorem State.setPc_mem (p : Word) : (s.setPc p).mem = s.mem := rfl
@[simp] theorem State.setPc_v (p : Word) : (s.setPc p).v = s.v := rfl
@[simp] theorem State.setPc_i (p : Word) : (s.setPc p).i = s.i := rfl
@[simp] theorem State.setPc_pc (p : Word) : (s.setPc p).pc = p := rfl
@[simp] theorem State.setPc_stack (p : Word) : (s.setPc p).stack = s.stack := rfl
@[simp] theorem State.setPc_sp (p : Word) : (s.setPc p).sp = s.sp := rfl
@[simp] theorem State.setPc_dt (p : Word) : (s.setPc p).dt = s.dt := rfl
@[simp] theorem State.setPc_st (p : Word) : (s.setPc p).st = s.st := rfl
@[simp] theorem State.setPc_disp (p : Word) : (s.setPc p).disp = s.disp := rfl
@[simp] theorem State.setPc_keys (p : Word) : (s.setPc p).keys = s.keys := rfl
@[simp] theorem State.setPc_status (p : Word) : (s.setPc p).status = s.status := rfl
@[simp] theorem State.setPc_faultPc (p : Word) : (s.setPc p).faultPc = s.faultPc := rfl
@[simp] theorem State.setPc_faultWord (p : Word) : (s.setPc p).faultWord = s.faultWord := rfl
@[simp] theorem State.setPc_faultInfo (p : Word) : (s.setPc p).faultInfo = s.faultInfo := rfl
@[simp] theorem State.setPc_randIn (p : Word) : (s.setPc p).randIn = s.randIn := rfl
@[simp] theorem State.setPc_freeDraws (p : Word) : (s.setPc p).freeDraws = s.freeDraws := rfl
@[simp] theorem State.setPc_getV (p : Word) (r : Reg) : (s.setPc p).getV r = s.getV r := rfl
@[simp] theorem State.setPc_getStack (p : Word) (j : Fin 16) : (s.setPc p).getStack j = s.getStack j := rfl
@[simp] theorem State.setPc_getKey (p : Word) (j : Fin 16) : (s.setPc p).getKey j = s.getKey j := rfl

/-! ## setI -/

@[simp] theorem State.setI_mem (a : Word) : (s.setI a).mem = s.mem := rfl
@[simp] theorem State.setI_v (a : Word) : (s.setI a).v = s.v := rfl
@[simp] theorem State.setI_i (a : Word) : (s.setI a).i = a := rfl
@[simp] theorem State.setI_pc (a : Word) : (s.setI a).pc = s.pc := rfl
@[simp] theorem State.setI_stack (a : Word) : (s.setI a).stack = s.stack := rfl
@[simp] theorem State.setI_sp (a : Word) : (s.setI a).sp = s.sp := rfl
@[simp] theorem State.setI_dt (a : Word) : (s.setI a).dt = s.dt := rfl
@[simp] theorem State.setI_st (a : Word) : (s.setI a).st = s.st := rfl
@[simp] theorem State.setI_disp (a : Word) : (s.setI a).disp = s.disp := rfl
@[simp] theorem State.setI_keys (a : Word) : (s.setI a).keys = s.keys := rfl
@[simp] theorem State.setI_status (a : Word) : (s.setI a).status = s.status := rfl
@[simp] theorem State.setI_faultPc (a : Word) : (s.setI a).faultPc = s.faultPc := rfl
@[simp] theorem State.setI_faultWord (a : Word) : (s.setI a).faultWord = s.faultWord := rfl
@[simp] theorem State.setI_faultInfo (a : Word) : (s.setI a).faultInfo = s.faultInfo := rfl
@[simp] theorem State.setI_randIn (a : Word) : (s.setI a).randIn = s.randIn := rfl
@[simp] theorem State.setI_freeDraws (a : Word) : (s.setI a).freeDraws = s.freeDraws := rfl
@[simp] theorem State.setI_getV (a : Word) (r : Reg) : (s.setI a).getV r = s.getV r := rfl
@[simp] theorem State.setI_getStack (a : Word) (j : Fin 16) : (s.setI a).getStack j = s.getStack j := rfl
@[simp] theorem State.setI_getKey (a : Word) (j : Fin 16) : (s.setI a).getKey j = s.getKey j := rfl

/-! ## setStack -/

@[simp] theorem State.setStack_mem (k : Fin 16) (a : Word) : (s.setStack k a).mem = s.mem := rfl
@[simp] theorem State.setStack_v (k : Fin 16) (a : Word) : (s.setStack k a).v = s.v := rfl
@[simp] theorem State.setStack_i (k : Fin 16) (a : Word) : (s.setStack k a).i = s.i := rfl
@[simp] theorem State.setStack_pc (k : Fin 16) (a : Word) : (s.setStack k a).pc = s.pc := rfl
@[simp] theorem State.setStack_stack (k : Fin 16) (a : Word) : (s.setStack k a).stack = s.stack.set k a := rfl
@[simp] theorem State.setStack_sp (k : Fin 16) (a : Word) : (s.setStack k a).sp = s.sp := rfl
@[simp] theorem State.setStack_dt (k : Fin 16) (a : Word) : (s.setStack k a).dt = s.dt := rfl
@[simp] theorem State.setStack_st (k : Fin 16) (a : Word) : (s.setStack k a).st = s.st := rfl
@[simp] theorem State.setStack_disp (k : Fin 16) (a : Word) : (s.setStack k a).disp = s.disp := rfl
@[simp] theorem State.setStack_keys (k : Fin 16) (a : Word) : (s.setStack k a).keys = s.keys := rfl
@[simp] theorem State.setStack_status (k : Fin 16) (a : Word) : (s.setStack k a).status = s.status := rfl
@[simp] theorem State.setStack_faultPc (k : Fin 16) (a : Word) : (s.setStack k a).faultPc = s.faultPc := rfl
@[simp] theorem State.setStack_faultWord (k : Fin 16) (a : Word) : (s.setStack k a).faultWord = s.faultWord := rfl
@[simp] theorem State.setStack_faultInfo (k : Fin 16) (a : Word) : (s.setStack k a).faultInfo = s.faultInfo := rfl
@[simp] theorem State.setStack_randIn (k : Fin 16) (a : Word) : (s.setStack k a).randIn = s.randIn := rfl
@[simp] theorem State.setStack_freeDraws (k : Fin 16) (a : Word) : (s.setStack k a).freeDraws = s.freeDraws := rfl
@[simp] theorem State.setStack_getV (k : Fin 16) (a : Word) (r : Reg) : (s.setStack k a).getV r = s.getV r := rfl
@[simp] theorem State.setStack_getKey (k : Fin 16) (a : Word) (j : Fin 16) : (s.setStack k a).getKey j = s.getKey j := rfl

/-! ## setSp -/

@[simp] theorem State.setSp_mem (n : Fin 17) : (s.setSp n).mem = s.mem := rfl
@[simp] theorem State.setSp_v (n : Fin 17) : (s.setSp n).v = s.v := rfl
@[simp] theorem State.setSp_i (n : Fin 17) : (s.setSp n).i = s.i := rfl
@[simp] theorem State.setSp_pc (n : Fin 17) : (s.setSp n).pc = s.pc := rfl
@[simp] theorem State.setSp_stack (n : Fin 17) : (s.setSp n).stack = s.stack := rfl
@[simp] theorem State.setSp_sp (n : Fin 17) : (s.setSp n).sp = n := rfl
@[simp] theorem State.setSp_dt (n : Fin 17) : (s.setSp n).dt = s.dt := rfl
@[simp] theorem State.setSp_st (n : Fin 17) : (s.setSp n).st = s.st := rfl
@[simp] theorem State.setSp_disp (n : Fin 17) : (s.setSp n).disp = s.disp := rfl
@[simp] theorem State.setSp_keys (n : Fin 17) : (s.setSp n).keys = s.keys := rfl
@[simp] theorem State.setSp_status (n : Fin 17) : (s.setSp n).status = s.status := rfl
@[simp] theorem State.setSp_faultPc (n : Fin 17) : (s.setSp n).faultPc = s.faultPc := rfl
@[simp] theorem State.setSp_faultWord (n : Fin 17) : (s.setSp n).faultWord = s.faultWord := rfl
@[simp] theorem State.setSp_faultInfo (n : Fin 17) : (s.setSp n).faultInfo = s.faultInfo := rfl
@[simp] theorem State.setSp_randIn (n : Fin 17) : (s.setSp n).randIn = s.randIn := rfl
@[simp] theorem State.setSp_freeDraws (n : Fin 17) : (s.setSp n).freeDraws = s.freeDraws := rfl
@[simp] theorem State.setSp_getV (n : Fin 17) (r : Reg) : (s.setSp n).getV r = s.getV r := rfl
@[simp] theorem State.setSp_getStack (n : Fin 17) (j : Fin 16) : (s.setSp n).getStack j = s.getStack j := rfl
@[simp] theorem State.setSp_getKey (n : Fin 17) (j : Fin 16) : (s.setSp n).getKey j = s.getKey j := rfl

/-! ## setDt -/

@[simp] theorem State.setDt_mem (b : Byte) : (s.setDt b).mem = s.mem := rfl
@[simp] theorem State.setDt_v (b : Byte) : (s.setDt b).v = s.v := rfl
@[simp] theorem State.setDt_i (b : Byte) : (s.setDt b).i = s.i := rfl
@[simp] theorem State.setDt_pc (b : Byte) : (s.setDt b).pc = s.pc := rfl
@[simp] theorem State.setDt_stack (b : Byte) : (s.setDt b).stack = s.stack := rfl
@[simp] theorem State.setDt_sp (b : Byte) : (s.setDt b).sp = s.sp := rfl
@[simp] theorem State.setDt_dt (b : Byte) : (s.setDt b).dt = b := rfl
@[simp] theorem State.setDt_st (b : Byte) : (s.setDt b).st = s.st := rfl
@[simp] theorem State.setDt_disp (b : Byte) : (s.setDt b).disp = s.disp := rfl
@[simp] theorem State.setDt_keys (b : Byte) : (s.setDt b).keys = s.keys := rfl
@[simp] theorem State.setDt_status (b : Byte) : (s.setDt b).status = s.status := rfl
@[simp] theorem State.setDt_faultPc (b : Byte) : (s.setDt b).faultPc = s.faultPc := rfl
@[simp] theorem State.setDt_faultWord (b : Byte) : (s.setDt b).faultWord = s.faultWord := rfl
@[simp] theorem State.setDt_faultInfo (b : Byte) : (s.setDt b).faultInfo = s.faultInfo := rfl
@[simp] theorem State.setDt_randIn (b : Byte) : (s.setDt b).randIn = s.randIn := rfl
@[simp] theorem State.setDt_freeDraws (b : Byte) : (s.setDt b).freeDraws = s.freeDraws := rfl
@[simp] theorem State.setDt_getV (b : Byte) (r : Reg) : (s.setDt b).getV r = s.getV r := rfl
@[simp] theorem State.setDt_getStack (b : Byte) (j : Fin 16) : (s.setDt b).getStack j = s.getStack j := rfl
@[simp] theorem State.setDt_getKey (b : Byte) (j : Fin 16) : (s.setDt b).getKey j = s.getKey j := rfl

/-! ## setSt -/

@[simp] theorem State.setSt_mem (b : Byte) : (s.setSt b).mem = s.mem := rfl
@[simp] theorem State.setSt_v (b : Byte) : (s.setSt b).v = s.v := rfl
@[simp] theorem State.setSt_i (b : Byte) : (s.setSt b).i = s.i := rfl
@[simp] theorem State.setSt_pc (b : Byte) : (s.setSt b).pc = s.pc := rfl
@[simp] theorem State.setSt_stack (b : Byte) : (s.setSt b).stack = s.stack := rfl
@[simp] theorem State.setSt_sp (b : Byte) : (s.setSt b).sp = s.sp := rfl
@[simp] theorem State.setSt_dt (b : Byte) : (s.setSt b).dt = s.dt := rfl
@[simp] theorem State.setSt_st (b : Byte) : (s.setSt b).st = b := rfl
@[simp] theorem State.setSt_disp (b : Byte) : (s.setSt b).disp = s.disp := rfl
@[simp] theorem State.setSt_keys (b : Byte) : (s.setSt b).keys = s.keys := rfl
@[simp] theorem State.setSt_status (b : Byte) : (s.setSt b).status = s.status := rfl
@[simp] theorem State.setSt_faultPc (b : Byte) : (s.setSt b).faultPc = s.faultPc := rfl
@[simp] theorem State.setSt_faultWord (b : Byte) : (s.setSt b).faultWord = s.faultWord := rfl
@[simp] theorem State.setSt_faultInfo (b : Byte) : (s.setSt b).faultInfo = s.faultInfo := rfl
@[simp] theorem State.setSt_randIn (b : Byte) : (s.setSt b).randIn = s.randIn := rfl
@[simp] theorem State.setSt_freeDraws (b : Byte) : (s.setSt b).freeDraws = s.freeDraws := rfl
@[simp] theorem State.setSt_getV (b : Byte) (r : Reg) : (s.setSt b).getV r = s.getV r := rfl
@[simp] theorem State.setSt_getStack (b : Byte) (j : Fin 16) : (s.setSt b).getStack j = s.getStack j := rfl
@[simp] theorem State.setSt_getKey (b : Byte) (j : Fin 16) : (s.setSt b).getKey j = s.getKey j := rfl

/-! ## setDisp -/

@[simp] theorem State.setDisp_mem (d : Bitmap Config.displayW Config.displayH) : (s.setDisp d).mem = s.mem := rfl
@[simp] theorem State.setDisp_v (d : Bitmap Config.displayW Config.displayH) : (s.setDisp d).v = s.v := rfl
@[simp] theorem State.setDisp_i (d : Bitmap Config.displayW Config.displayH) : (s.setDisp d).i = s.i := rfl
@[simp] theorem State.setDisp_pc (d : Bitmap Config.displayW Config.displayH) : (s.setDisp d).pc = s.pc := rfl
@[simp] theorem State.setDisp_stack (d : Bitmap Config.displayW Config.displayH) : (s.setDisp d).stack = s.stack := rfl
@[simp] theorem State.setDisp_sp (d : Bitmap Config.displayW Config.displayH) : (s.setDisp d).sp = s.sp := rfl
@[simp] theorem State.setDisp_dt (d : Bitmap Config.displayW Config.displayH) : (s.setDisp d).dt = s.dt := rfl
@[simp] theorem State.setDisp_st (d : Bitmap Config.displayW Config.displayH) : (s.setDisp d).st = s.st := rfl
@[simp] theorem State.setDisp_disp (d : Bitmap Config.displayW Config.displayH) : (s.setDisp d).disp = d := rfl
@[simp] theorem State.setDisp_keys (d : Bitmap Config.displayW Config.displayH) : (s.setDisp d).keys = s.keys := rfl
@[simp] theorem State.setDisp_status (d : Bitmap Config.displayW Config.displayH) : (s.setDisp d).status = s.status := rfl
@[simp] theorem State.setDisp_faultPc (d : Bitmap Config.displayW Config.displayH) : (s.setDisp d).faultPc = s.faultPc := rfl
@[simp] theorem State.setDisp_faultWord (d : Bitmap Config.displayW Config.displayH) : (s.setDisp d).faultWord = s.faultWord := rfl
@[simp] theorem State.setDisp_faultInfo (d : Bitmap Config.displayW Config.displayH) : (s.setDisp d).faultInfo = s.faultInfo := rfl
@[simp] theorem State.setDisp_randIn (d : Bitmap Config.displayW Config.displayH) : (s.setDisp d).randIn = s.randIn := rfl
@[simp] theorem State.setDisp_freeDraws (d : Bitmap Config.displayW Config.displayH) : (s.setDisp d).freeDraws = s.freeDraws := rfl
@[simp] theorem State.setDisp_getV (d : Bitmap Config.displayW Config.displayH) (r : Reg) : (s.setDisp d).getV r = s.getV r := rfl
@[simp] theorem State.setDisp_getStack (d : Bitmap Config.displayW Config.displayH) (j : Fin 16) : (s.setDisp d).getStack j = s.getStack j := rfl
@[simp] theorem State.setDisp_getKey (d : Bitmap Config.displayW Config.displayH) (j : Fin 16) : (s.setDisp d).getKey j = s.getKey j := rfl

/-! ## advancePc -/

@[simp] theorem State.advancePc_mem : (s.advancePc).mem = s.mem := rfl
@[simp] theorem State.advancePc_v : (s.advancePc).v = s.v := rfl
@[simp] theorem State.advancePc_i : (s.advancePc).i = s.i := rfl
@[simp] theorem State.advancePc_pc : (s.advancePc).pc = s.pc + 2 := rfl
@[simp] theorem State.advancePc_stack : (s.advancePc).stack = s.stack := rfl
@[simp] theorem State.advancePc_sp : (s.advancePc).sp = s.sp := rfl
@[simp] theorem State.advancePc_dt : (s.advancePc).dt = s.dt := rfl
@[simp] theorem State.advancePc_st : (s.advancePc).st = s.st := rfl
@[simp] theorem State.advancePc_disp : (s.advancePc).disp = s.disp := rfl
@[simp] theorem State.advancePc_keys : (s.advancePc).keys = s.keys := rfl
@[simp] theorem State.advancePc_status : (s.advancePc).status = s.status := rfl
@[simp] theorem State.advancePc_faultPc : (s.advancePc).faultPc = s.faultPc := rfl
@[simp] theorem State.advancePc_faultWord : (s.advancePc).faultWord = s.faultWord := rfl
@[simp] theorem State.advancePc_faultInfo : (s.advancePc).faultInfo = s.faultInfo := rfl
@[simp] theorem State.advancePc_randIn : (s.advancePc).randIn = s.randIn := rfl
@[simp] theorem State.advancePc_freeDraws : (s.advancePc).freeDraws = s.freeDraws := rfl
@[simp] theorem State.advancePc_getV (r : Reg) : (s.advancePc).getV r = s.getV r := rfl
@[simp] theorem State.advancePc_getStack (j : Fin 16) : (s.advancePc).getStack j = s.getStack j := rfl
@[simp] theorem State.advancePc_getKey (j : Fin 16) : (s.advancePc).getKey j = s.getKey j := rfl

/-! ## skip -/

@[simp] theorem State.skip_mem : (s.skip).mem = s.mem := rfl
@[simp] theorem State.skip_v : (s.skip).v = s.v := rfl
@[simp] theorem State.skip_i : (s.skip).i = s.i := rfl
@[simp] theorem State.skip_pc : (s.skip).pc = s.pc + 2 := rfl
@[simp] theorem State.skip_stack : (s.skip).stack = s.stack := rfl
@[simp] theorem State.skip_sp : (s.skip).sp = s.sp := rfl
@[simp] theorem State.skip_dt : (s.skip).dt = s.dt := rfl
@[simp] theorem State.skip_st : (s.skip).st = s.st := rfl
@[simp] theorem State.skip_disp : (s.skip).disp = s.disp := rfl
@[simp] theorem State.skip_keys : (s.skip).keys = s.keys := rfl
@[simp] theorem State.skip_status : (s.skip).status = s.status := rfl
@[simp] theorem State.skip_faultPc : (s.skip).faultPc = s.faultPc := rfl
@[simp] theorem State.skip_faultWord : (s.skip).faultWord = s.faultWord := rfl
@[simp] theorem State.skip_faultInfo : (s.skip).faultInfo = s.faultInfo := rfl
@[simp] theorem State.skip_randIn : (s.skip).randIn = s.randIn := rfl
@[simp] theorem State.skip_freeDraws : (s.skip).freeDraws = s.freeDraws := rfl
@[simp] theorem State.skip_getV (r : Reg) : (s.skip).getV r = s.getV r := rfl
@[simp] theorem State.skip_getStack (j : Fin 16) : (s.skip).getStack j = s.getStack j := rfl
@[simp] theorem State.skip_getKey (j : Fin 16) : (s.skip).getKey j = s.getKey j := rfl

/-! ## countDraw -/

@[simp] theorem State.countDraw_mem : (s.countDraw).mem = s.mem := rfl
@[simp] theorem State.countDraw_v : (s.countDraw).v = s.v := rfl
@[simp] theorem State.countDraw_i : (s.countDraw).i = s.i := rfl
@[simp] theorem State.countDraw_pc : (s.countDraw).pc = s.pc := rfl
@[simp] theorem State.countDraw_stack : (s.countDraw).stack = s.stack := rfl
@[simp] theorem State.countDraw_sp : (s.countDraw).sp = s.sp := rfl
@[simp] theorem State.countDraw_dt : (s.countDraw).dt = s.dt := rfl
@[simp] theorem State.countDraw_st : (s.countDraw).st = s.st := rfl
@[simp] theorem State.countDraw_disp : (s.countDraw).disp = s.disp := rfl
@[simp] theorem State.countDraw_keys : (s.countDraw).keys = s.keys := rfl
@[simp] theorem State.countDraw_status : (s.countDraw).status = s.status := rfl
@[simp] theorem State.countDraw_faultPc : (s.countDraw).faultPc = s.faultPc := rfl
@[simp] theorem State.countDraw_faultWord : (s.countDraw).faultWord = s.faultWord := rfl
@[simp] theorem State.countDraw_faultInfo : (s.countDraw).faultInfo = s.faultInfo := rfl
@[simp] theorem State.countDraw_randIn : (s.countDraw).randIn = s.randIn := rfl
@[simp] theorem State.countDraw_freeDraws : (s.countDraw).freeDraws = s.freeDraws + 1 := rfl
@[simp] theorem State.countDraw_getV (r : Reg) : (s.countDraw).getV r = s.getV r := rfl
@[simp] theorem State.countDraw_getStack (j : Fin 16) : (s.countDraw).getStack j = s.getStack j := rfl
@[simp] theorem State.countDraw_getKey (j : Fin 16) : (s.countDraw).getKey j = s.getKey j := rfl

/-! ## useRandIn -/

@[simp] theorem State.useRandIn_mem : (s.useRandIn).mem = s.mem := rfl
@[simp] theorem State.useRandIn_v : (s.useRandIn).v = s.v := rfl
@[simp] theorem State.useRandIn_i : (s.useRandIn).i = s.i := rfl
@[simp] theorem State.useRandIn_pc : (s.useRandIn).pc = s.pc := rfl
@[simp] theorem State.useRandIn_stack : (s.useRandIn).stack = s.stack := rfl
@[simp] theorem State.useRandIn_sp : (s.useRandIn).sp = s.sp := rfl
@[simp] theorem State.useRandIn_dt : (s.useRandIn).dt = s.dt := rfl
@[simp] theorem State.useRandIn_st : (s.useRandIn).st = s.st := rfl
@[simp] theorem State.useRandIn_disp : (s.useRandIn).disp = s.disp := rfl
@[simp] theorem State.useRandIn_keys : (s.useRandIn).keys = s.keys := rfl
@[simp] theorem State.useRandIn_status : (s.useRandIn).status = s.status := rfl
@[simp] theorem State.useRandIn_faultPc : (s.useRandIn).faultPc = s.faultPc := rfl
@[simp] theorem State.useRandIn_faultWord : (s.useRandIn).faultWord = s.faultWord := rfl
@[simp] theorem State.useRandIn_faultInfo : (s.useRandIn).faultInfo = s.faultInfo := rfl
@[simp] theorem State.useRandIn_randIn : (s.useRandIn).randIn = none := rfl
@[simp] theorem State.useRandIn_freeDraws : (s.useRandIn).freeDraws = s.freeDraws := rfl
@[simp] theorem State.useRandIn_getV (r : Reg) : (s.useRandIn).getV r = s.getV r := rfl
@[simp] theorem State.useRandIn_getStack (j : Fin 16) : (s.useRandIn).getStack j = s.getStack j := rfl
@[simp] theorem State.useRandIn_getKey (j : Fin 16) : (s.useRandIn).getKey j = s.getKey j := rfl

/-! ## Registers and stack entries read after they are written -/

@[simp] theorem State.setV_getV_same (x : Reg) (b : Byte) : (s.setV x b).getV x = b := by
  simp [State.getV]

theorem State.setV_getV_ne {x r : Reg} (b : Byte) (h : r ≠ x) : (s.setV x b).getV r = s.getV r := by
  have : x.val ≠ r.val := fun e => h (Fin.ext e.symm)
  simp [State.getV, this]

theorem State.setV_getV (x r : Reg) (b : Byte) :
    (s.setV x b).getV r = if r = x then b else s.getV r := by
  split
  · next h => subst h; exact s.setV_getV_same r b
  · next h => exact s.setV_getV_ne b h

@[simp] theorem State.setStack_getStack_same (k : Fin 16) (a : Word) : (s.setStack k a).getStack k = a := by
  simp [State.getStack]

theorem State.setStack_getStack_ne {k j : Fin 16} (a : Word) (h : j ≠ k) :
    (s.setStack k a).getStack j = s.getStack j := by
  have : k.val ≠ j.val := fun e => h (Fin.ext e.symm)
  simp [State.getStack, this]

/-- Two register files with the same registers are the same. -/
theorem regs_ext {v w : Vector Byte 16} (h : ∀ r : Reg, v[r] = w[r]) : v = w :=
  Vector.ext fun k hk => h ⟨k, hk⟩

/-! ## skipIf -/

@[simp] theorem State.skipIf_mem (c : Bool) : (s.skipIf c).mem = s.mem := by cases c <;> rfl
@[simp] theorem State.skipIf_v (c : Bool) : (s.skipIf c).v = s.v := by cases c <;> rfl
@[simp] theorem State.skipIf_i (c : Bool) : (s.skipIf c).i = s.i := by cases c <;> rfl
theorem State.skipIf_pc (c : Bool) : (s.skipIf c).pc = if c then s.pc + 2 else s.pc := by
  cases c <;> rfl
@[simp] theorem State.skipIf_stack (c : Bool) : (s.skipIf c).stack = s.stack := by cases c <;> rfl
@[simp] theorem State.skipIf_sp (c : Bool) : (s.skipIf c).sp = s.sp := by cases c <;> rfl
@[simp] theorem State.skipIf_dt (c : Bool) : (s.skipIf c).dt = s.dt := by cases c <;> rfl
@[simp] theorem State.skipIf_st (c : Bool) : (s.skipIf c).st = s.st := by cases c <;> rfl
@[simp] theorem State.skipIf_disp (c : Bool) : (s.skipIf c).disp = s.disp := by cases c <;> rfl
@[simp] theorem State.skipIf_keys (c : Bool) : (s.skipIf c).keys = s.keys := by cases c <;> rfl
@[simp] theorem State.skipIf_status (c : Bool) : (s.skipIf c).status = s.status := by cases c <;> rfl
@[simp] theorem State.skipIf_faultPc (c : Bool) : (s.skipIf c).faultPc = s.faultPc := by cases c <;> rfl
@[simp] theorem State.skipIf_faultWord (c : Bool) : (s.skipIf c).faultWord = s.faultWord := by cases c <;> rfl
@[simp] theorem State.skipIf_faultInfo (c : Bool) : (s.skipIf c).faultInfo = s.faultInfo := by cases c <;> rfl
@[simp] theorem State.skipIf_randIn (c : Bool) : (s.skipIf c).randIn = s.randIn := by cases c <;> rfl
@[simp] theorem State.skipIf_freeDraws (c : Bool) : (s.skipIf c).freeDraws = s.freeDraws := by cases c <;> rfl
@[simp] theorem State.skipIf_getV (c : Bool) (r : Reg) : (s.skipIf c).getV r = s.getV r := by
  cases c <;> rfl
@[simp] theorem State.skipIf_getStack (c : Bool) (r : Fin 16) : (s.skipIf c).getStack r = s.getStack r := by
  cases c <;> rfl
@[simp] theorem State.skipIf_getKey (c : Bool) (r : Fin 16) : (s.skipIf c).getKey r = s.getKey r := by
  cases c <;> rfl

/-! ## setRandIn -/

@[simp] theorem State.setRandIn_mem (b : Option Byte) : (s.setRandIn b).mem = s.mem := rfl
@[simp] theorem State.setRandIn_v (b : Option Byte) : (s.setRandIn b).v = s.v := rfl
@[simp] theorem State.setRandIn_i (b : Option Byte) : (s.setRandIn b).i = s.i := rfl
@[simp] theorem State.setRandIn_pc (b : Option Byte) : (s.setRandIn b).pc = s.pc := rfl
@[simp] theorem State.setRandIn_stack (b : Option Byte) : (s.setRandIn b).stack = s.stack := rfl
@[simp] theorem State.setRandIn_sp (b : Option Byte) : (s.setRandIn b).sp = s.sp := rfl
@[simp] theorem State.setRandIn_dt (b : Option Byte) : (s.setRandIn b).dt = s.dt := rfl
@[simp] theorem State.setRandIn_st (b : Option Byte) : (s.setRandIn b).st = s.st := rfl
@[simp] theorem State.setRandIn_disp (b : Option Byte) : (s.setRandIn b).disp = s.disp := rfl
@[simp] theorem State.setRandIn_keys (b : Option Byte) : (s.setRandIn b).keys = s.keys := rfl
@[simp] theorem State.setRandIn_status (b : Option Byte) : (s.setRandIn b).status = s.status := rfl
@[simp] theorem State.setRandIn_faultPc (b : Option Byte) : (s.setRandIn b).faultPc = s.faultPc := rfl
@[simp] theorem State.setRandIn_faultWord (b : Option Byte) : (s.setRandIn b).faultWord = s.faultWord := rfl
@[simp] theorem State.setRandIn_faultInfo (b : Option Byte) : (s.setRandIn b).faultInfo = s.faultInfo := rfl
@[simp] theorem State.setRandIn_freeDraws (b : Option Byte) : (s.setRandIn b).freeDraws = s.freeDraws := rfl
@[simp] theorem State.setRandIn_randIn (b : Option Byte) : (s.setRandIn b).randIn = b := rfl
@[simp] theorem State.setRandIn_setRandIn (b c : Option Byte) : (s.setRandIn b).setRandIn c = s.setRandIn c := rfl
@[simp] theorem State.setRandIn_self : s.setRandIn s.randIn = s := rfl
@[simp] theorem State.setRandIn_getV (b : Option Byte) (j : Reg) : (s.setRandIn b).getV j = s.getV j := rfl
@[simp] theorem State.setRandIn_getStack (b : Option Byte) (j : Fin 16) : (s.setRandIn b).getStack j = s.getStack j := rfl
@[simp] theorem State.setRandIn_getKey (b : Option Byte) (j : Fin 16) : (s.setRandIn b).getKey j = s.getKey j := rfl

/-! ## setResultAndFlag -/

@[simp] theorem State.setResultAndFlag_mem (x : Reg) (r g : Byte) : (s.setResultAndFlag x r g).mem = s.mem := rfl
@[simp] theorem State.setResultAndFlag_i (x : Reg) (r g : Byte) : (s.setResultAndFlag x r g).i = s.i := rfl
@[simp] theorem State.setResultAndFlag_pc (x : Reg) (r g : Byte) : (s.setResultAndFlag x r g).pc = s.pc := rfl
@[simp] theorem State.setResultAndFlag_stack (x : Reg) (r g : Byte) : (s.setResultAndFlag x r g).stack = s.stack := rfl
@[simp] theorem State.setResultAndFlag_sp (x : Reg) (r g : Byte) : (s.setResultAndFlag x r g).sp = s.sp := rfl
@[simp] theorem State.setResultAndFlag_dt (x : Reg) (r g : Byte) : (s.setResultAndFlag x r g).dt = s.dt := rfl
@[simp] theorem State.setResultAndFlag_st (x : Reg) (r g : Byte) : (s.setResultAndFlag x r g).st = s.st := rfl
@[simp] theorem State.setResultAndFlag_disp (x : Reg) (r g : Byte) : (s.setResultAndFlag x r g).disp = s.disp := rfl
@[simp] theorem State.setResultAndFlag_keys (x : Reg) (r g : Byte) : (s.setResultAndFlag x r g).keys = s.keys := rfl
@[simp] theorem State.setResultAndFlag_status (x : Reg) (r g : Byte) : (s.setResultAndFlag x r g).status = s.status := rfl
@[simp] theorem State.setResultAndFlag_faultPc (x : Reg) (r g : Byte) : (s.setResultAndFlag x r g).faultPc = s.faultPc := rfl
@[simp] theorem State.setResultAndFlag_faultWord (x : Reg) (r g : Byte) : (s.setResultAndFlag x r g).faultWord = s.faultWord := rfl
@[simp] theorem State.setResultAndFlag_faultInfo (x : Reg) (r g : Byte) : (s.setResultAndFlag x r g).faultInfo = s.faultInfo := rfl
@[simp] theorem State.setResultAndFlag_randIn (x : Reg) (r g : Byte) : (s.setResultAndFlag x r g).randIn = s.randIn := rfl
@[simp] theorem State.setResultAndFlag_freeDraws (x : Reg) (r g : Byte) : (s.setResultAndFlag x r g).freeDraws = s.freeDraws := rfl
@[simp] theorem State.setResultAndFlag_getStack (x : Reg) (r g : Byte) (j : Fin 16) : (s.setResultAndFlag x r g).getStack j = s.getStack j := rfl
@[simp] theorem State.setResultAndFlag_getKey (x : Reg) (r g : Byte) (j : Fin 16) : (s.setResultAndFlag x r g).getKey j = s.getKey j := rfl

/-! ## Fault entry -/

@[simp] theorem takeFault_mem (f : Fault) (p w info : Word) : (takeFault f p w info s).mem = s.mem := rfl
@[simp] theorem takeFault_v (f : Fault) (p w info : Word) : (takeFault f p w info s).v = s.v := rfl
@[simp] theorem takeFault_i (f : Fault) (p w info : Word) : (takeFault f p w info s).i = s.i := rfl
@[simp] theorem takeFault_pc (f : Fault) (p w info : Word) : (takeFault f p w info s).pc = s.pc := rfl
@[simp] theorem takeFault_stack (f : Fault) (p w info : Word) : (takeFault f p w info s).stack = s.stack := rfl
@[simp] theorem takeFault_sp (f : Fault) (p w info : Word) : (takeFault f p w info s).sp = s.sp := rfl
@[simp] theorem takeFault_dt (f : Fault) (p w info : Word) : (takeFault f p w info s).dt = s.dt := rfl
@[simp] theorem takeFault_st (f : Fault) (p w info : Word) : (takeFault f p w info s).st = s.st := rfl
@[simp] theorem takeFault_disp (f : Fault) (p w info : Word) : (takeFault f p w info s).disp = s.disp := rfl
@[simp] theorem takeFault_keys (f : Fault) (p w info : Word) : (takeFault f p w info s).keys = s.keys := rfl
@[simp] theorem takeFault_status (f : Fault) (p w info : Word) : (takeFault f p w info s).status = { state := .halted, code := some f } := rfl
@[simp] theorem takeFault_faultPc (f : Fault) (p w info : Word) : (takeFault f p w info s).faultPc = p := rfl
@[simp] theorem takeFault_faultWord (f : Fault) (p w info : Word) : (takeFault f p w info s).faultWord = if f = .fetchError then 0 else w := rfl
@[simp] theorem takeFault_faultInfo (f : Fault) (p w info : Word) : (takeFault f p w info s).faultInfo = info := rfl
@[simp] theorem takeFault_randIn (f : Fault) (p w info : Word) : (takeFault f p w info s).randIn = s.randIn := rfl
@[simp] theorem takeFault_freeDraws (f : Fault) (p w info : Word) : (takeFault f p w info s).freeDraws = s.freeDraws := rfl
@[simp] theorem takeFault_getV (f : Fault) (p w info : Word) (r : Reg) :
    (takeFault f p w info s).getV r = s.getV r := rfl
@[simp] theorem takeFault_getStack (f : Fault) (p w info : Word) (r : Fin 16) :
    (takeFault f p w info s).getStack r = s.getStack r := rfl
@[simp] theorem takeFault_getKey (f : Fault) (p w info : Word) (r : Fin 16) :
    (takeFault f p w info s).getKey r = s.getKey r := rfl

end Sys2Proof.Machine
end

