-- ==== Sys2Proof/Laws/Ops.lean ====
section
/-! SUPPORT. One lemma for each shared operation: what it answers and what it leaves alone. -/

namespace Sys2Proof.Machine

/-! ## Fetch (R73) and range checks (R58) -/

theorem fetch_eq_some_iff (s : State) (w : Word) :
    fetch s = some w ↔
      s.pc.toNat + 1 ≤ 0xFFF ∧
        w = wordOfBytes (Memory.read s.mem s.pc.toNat) (Memory.read s.mem (s.pc.toNat + 1)) := by
  unfold fetch wordAt Config.memSize
  split
  · simp_all [eq_comm]
    omega
  · simp
    omega

theorem fetch_eq_none_iff (s : State) : fetch s = none ↔ 0xFFF < s.pc.toNat + 1 := by
  unfold fetch Config.memSize
  split <;> simp <;> omega

theorem inRange_iff (base count : Nat) :
    inRange base count = true ↔ count = 0 ∨ base + count - 1 ≤ 0xFFF := by
  simp [inRange, Config.memSize]
  omega

theorem inRange_eq_false_iff (base count : Nat) :
    inRange base count = false ↔ 0 < count ∧ 0xFFF < base + count - 1 := by
  rw [← Bool.not_eq_true, inRange_iff]
  omega

/-! ## Faults (R201) -/

/-- What raising a fault in the execute phase does. -/
theorem raiseFault_takesFault (f : Fault) (info : Word) (s : State) :
    ∃ t, raiseFault f info s = .next t ∧ TakesFault f info s t := by
  refine ⟨_, rfl, rfl, rfl, rfl, rfl, fun c hc => ?_⟩
  cases c <;> simp_all [Component.Same]

/-- A fault halts the block. -/
theorem TakesFault.halted {f : Fault} {info : Word} {s t : State} (h : TakesFault f info s t) :
    t.Halted := by
  simp [State.Halted, h.1]

/-! ## Blocks of registers -/

theorem getElem_writeRegs (v : Vector Byte 16) (k : Nat) (bs : List Byte) (r : Nat) (hr : r < 16) :
    (writeRegs v k bs)[r] = if k ≤ r ∧ r < k + bs.length then bs.getD (r - k) 0 else v[r] := by
  induction bs generalizing v k with
  | nil => simp [writeRegs]
  | cons b bs ih =>
    rw [writeRegs, ih]
    by_cases h : r = k
    · subst h; simp
    · by_cases h2 : k ≤ r ∧ r < k + (b :: bs).length
      · have h3 : k + 1 ≤ r ∧ r < k + 1 + bs.length := by simp at h2; omega
        obtain ⟨j, hj⟩ : ∃ j, r - k = j + 1 := ⟨r - k - 1, by omega⟩
        have hj' : r - (k + 1) = j := by omega
        rw [if_pos h2, if_pos h3, hj, hj']
        simp
      · have h3 : ¬(k + 1 ≤ r ∧ r < k + 1 + bs.length) := by simp at h2; omega
        rw [if_neg h2, if_neg h3, Vector.getElem_setIfInBounds_ne hr (Ne.symm h)]

@[simp] theorem State.regsUpTo_length (s : State) (x : Reg) : (s.regsUpTo x).length = x.val + 1 := by
  have := x.isLt
  simp [State.regsUpTo]

theorem State.regsUpTo_getD (s : State) {x k : Reg} (h : k ≤ x) :
    (s.regsUpTo x).getD k.val 0 = s.getV k := by
  have hk : k.val < x.val + 1 := Nat.lt_succ_of_le h
  have := k.isLt
  simp [State.regsUpTo, State.getV, List.getD, hk]

/-! ## Keys (R160, R163) -/

theorem keyIndex_fault_some (v : Byte) (k : Fin 16) :
    keyIndex .fault v = some k ↔ v.toNat = k.val := by
  unfold keyIndex
  split
  · simp [Fin.ext_iff]
  · have := k.isLt
    simp
    omega

theorem keyIndex_fault_none (v : Byte) : keyIndex .fault v = none ↔ 0xF < v.toNat := by
  unfold keyIndex
  split <;> simp <;> omega

theorem mem_pressedKeys (s : State) (k : Fin 16) : k ∈ s.pressedKeys ↔ s.getKey k = true := by
  have : k ∈ allKeys := by revert k; decide
  simp [State.pressedKeys, this]

/-- The open choice is one of the keys. -/
theorem chooseKey_mem (pick : Nat) (k : Fin 16) (ks : List (Fin 16)) :
    chooseKey pick k ks ∈ k :: ks := by
  have h : pick % (ks.length + 1) < (k :: ks).length := Nat.mod_lt _ (by simp)
  unfold chooseKey
  rw [List.getD_eq_getElem _ _ h]
  exact List.getElem_mem h

/-- Any of the keys may be the choice. -/
theorem chooseKey_surjective (k : Fin 16) (ks : List (Fin 16)) {j : Fin 16} (hj : j ∈ k :: ks) :
    ∃ pick, chooseKey pick k ks = j := by
  obtain ⟨n, hn, rfl⟩ := List.getElem_of_mem hj
  refine ⟨n, ?_⟩
  have : n % (ks.length + 1) = n := Nat.mod_eq_of_lt (by simpa using hn)
  simp only [chooseKey, this]
  exact List.getD_eq_getElem _ _ hn

/-! ## Flags (R120) -/

@[simp] theorem flagByte_toNat (c : Bool) : (flagByte c).toNat = if c then 1 else 0 := by
  cases c <;> rfl

/-- The flag wins when the destination is `VF` (R22, R120). -/
theorem State.setResultAndFlag_getV (s : State) (x r : Reg) (b f : Byte) :
    (s.setResultAndFlag x b f).getV r = if r = Reg.vf then f else if r = x then b else s.getV r := by
  rw [State.setResultAndFlag, State.setV_getV, State.setV_getV]

/-- Writing registers changes nothing but registers. -/
theorem State.setV_onlyChanges (s : State) (x : Reg) (b : Byte) : OnlyChanges [.v] s (s.setV x b) := by
  intro c hc
  cases c <;> simp_all [Component.Same]

/-- A result and a flag change nothing but registers. -/
theorem State.setResultAndFlag_onlyChanges (s : State) (x : Reg) (b f : Byte) :
    OnlyChanges [.v] s (s.setResultAndFlag x b f) := by
  intro c hc
  cases c <;> simp_all [Component.Same, State.setResultAndFlag]

/-- A skip changes nothing but `pc`. -/
theorem State.skipIf_onlyChanges (s : State) (c : Bool) : OnlyChanges [.pc] s (s.skipIf c) := by
  intro k hk
  cases k <;> simp_all [Component.Same]

/-- A jump changes nothing but `pc`. -/
theorem State.setPc_onlyChanges (s : State) (p : Word) : OnlyChanges [.pc] s (s.setPc p) := by
  intro c hc
  cases c <;> simp_all [Component.Same]

/-- A new memory changes nothing but memory. -/
theorem State.setMem_onlyChanges (s : State) (m : Memory) : OnlyChanges [.mem] s (s.setMem m) := by
  intro c hc
  cases c <;> simp_all [Component.Same]

/-- New registers change nothing but registers. -/
theorem State.setRegs_onlyChanges (s : State) (v : Vector Byte 16) : OnlyChanges [.v] s (s.setRegs v) := by
  intro c hc
  cases c <;> simp_all [Component.Same]

/-- A new display changes nothing but the display. -/
theorem State.setDisp_onlyChanges (s : State) (d : Bitmap Config.displayW Config.displayH) :
    OnlyChanges [.disp] s (s.setDisp d) := by
  intro c hc
  cases c <;> simp_all [Component.Same]

/-- Fault entry changes nothing but `STATUS` and the fault record (R201). -/
theorem takeFault_onlyChanges (f : Fault) (p w info : Word) (s : State) :
    OnlyChanges [.status, .faultRecord] s (takeFault f p w info s) := by
  intro c hc
  cases c <;> simp_all [Component.Same]

theorem State.setV_keepsRegsBut (s : State) (x : Reg) (b : Byte) : KeepsRegsBut [x] s (s.setV x b) :=
  fun _ hr => s.setV_getV_ne b (by simpa using hr)

theorem State.setResultAndFlag_keepsRegsBut (s : State) (x : Reg) (b f : Byte) :
    KeepsRegsBut [x, Reg.vf] s (s.setResultAndFlag x b f) := by
  intro r hr
  simp only [List.mem_cons, List.not_mem_nil, or_false, not_or] at hr
  rw [s.setResultAndFlag_getV, if_neg hr.2, if_neg hr.1]

/-- What may change may change among more. -/
theorem OnlyChanges.mono {cs ds : List Component} {s t : State} (h : OnlyChanges cs s t)
    (hsub : cs ⊆ ds) : OnlyChanges ds s t := fun c hc => h c fun hcs => hc (hsub hcs)

theorem Component.Same.refl (c : Component) (s : State) : Component.Same c s s := by
  cases c <;> simp [Component.Same]

theorem Component.Same.trans {c : Component} {s t u : State} (h : Component.Same c s t)
    (h' : Component.Same c t u) : Component.Same c s u := by
  cases c <;> simp_all [Component.Same]

theorem OnlyChanges.refl (cs : List Component) (s : State) : OnlyChanges cs s s :=
  fun c _ => Component.Same.refl c s

theorem OnlyChanges.trans {cs : List Component} {s t u : State} (h : OnlyChanges cs s t)
    (h' : OnlyChanges cs t u) : OnlyChanges cs s u := fun c hc => (h c hc).trans (h' c hc)

/-- A byte the host supplied is taken, and used up (R132, R215). -/
theorem State.randomByte_of_some {s : State} {b : Byte} (h : s.randIn = some b) :
    s.randomByte = (b, s.useRandIn) := by
  simp [State.randomByte, h]

/-- Where the host supplied none, the byte is free, and the draw is counted. -/
theorem State.randomByte_of_none {s : State} (h : s.randIn = none) :
    s.randomByte = (Config.freeRandByte s.freeDraws, s.countDraw) := by
  simp [State.randomByte, h]

/-- What the random byte is, and what taking it uses up (R132, R215). -/
theorem State.randomByte_spec (s : State) :
    OnlyChanges [.randIn, .freeDraws] s s.randomByte.2 ∧
      ∀ b, s.randIn = some b → s.randomByte.1 = b := by
  refine ⟨?_, fun b h => by rw [State.randomByte_of_some h]⟩
  cases h : s.randIn with
  | none =>
    rw [State.randomByte_of_none h]
    intro c hc
    cases c <;> simp_all [Component.Same]
  | some b =>
    rw [State.randomByte_of_some h]
    intro c hc
    cases c <;> simp_all [Component.Same]

/-- A new byte on `rand_in` changes nothing else. -/
theorem State.setRandIn_onlyChanges (s : State) (b : Option Byte) : OnlyChanges [.randIn] s (s.setRandIn b) := by
  intro c hc
  cases c <;> simp_all [Component.Same]

end Sys2Proof.Machine
end

