-- ==== Sys2Proof/Laws/PerInstr.lean ====
section
/-! SUPPORT. Statements for all instructions, one lemma for each constructor. Family `EncodingRow`: the word of an instruction has
the fixed bits of its row of spec/opcode_table.json, and 0 in the bits that nothing examines (spec 30_encoding.md R78, R79). -/

namespace Sys2Proof.Laws.EncodingRow

/-- The encoder's word matches the row, and writes 0 where nothing examines a bit. -/
def Statement (i : Instr) : Prop :=
  encode i &&& i.rowMask = i.rowMatch ∧ encode i &&& i.ignoredBits = 0

theorem and_zero (w : Word) : w &&& 0x0000 = 0 := BitVec.and_zero

/-- Rows of format `NNN`. -/
theorem nnn_row (op : BitVec 4) (nnn : Addr) : packNNN op nnn &&& 0xF000 = packNNN op 0 := by
  rw [and_F000]
  simp

/-- Rows of format `XNN`. -/
theorem xnn_row (op : BitVec 4) (x : Reg) (nn : Byte) : packXNN op x nn &&& 0xF000 = packNNN op 0 := by
  rw [and_F000]
  simp

/-- Rows of formats `X` and `O`. -/
theorem x_row (op : BitVec 4) (x : Reg) (nn : Byte) : packXNN op x nn &&& 0xF0FF = packXNN op 0 nn := by
  rw [and_F0FF]
  simp

/-- Rows of format `XY` with a selector nibble. -/
theorem xy_row (op : BitVec 4) (x y : Reg) (n : Nat) :
    packXYN op x y n &&& 0xF00F = packXYN op 0 0 (n % 16) := by
  rw [and_F00F]
  simp

/-- Rows of formats `XY` and `XYN` without a selector. -/
theorem xyn_row (op : BitVec 4) (x y : Reg) (n : Nat) : packXYN op x y n &&& 0xF000 = packNNN op 0 := by
  rw [and_F000]
  simp

theorem clearDisplay : Statement .clearDisplay :=
  ⟨x_row _ _ _, by decide⟩

theorem ret : Statement .ret :=
  ⟨x_row _ _ _, by decide⟩

theorem jump (nnn : Addr) : Statement (.jump nnn) :=
  ⟨nnn_row _ _, and_zero _⟩

theorem call (nnn : Addr) : Statement (.call nnn) :=
  ⟨nnn_row _ _, and_zero _⟩

theorem skipEqImm (x : Reg) (nn : Byte) : Statement (.skipEqImm x nn) :=
  ⟨xnn_row _ _ _, and_zero _⟩

theorem skipNeImm (x : Reg) (nn : Byte) : Statement (.skipNeImm x nn) :=
  ⟨xnn_row _ _ _, and_zero _⟩

theorem skipEqReg (x y : Reg) : Statement (.skipEqReg x y) :=
  ⟨xyn_row _ _ _ _, by
    rw [encode, Instr.ignoredBits, and_000F]
    simp
    decide⟩

theorem setImm (x : Reg) (nn : Byte) : Statement (.setImm x nn) :=
  ⟨xnn_row _ _ _, and_zero _⟩

theorem addImm (x : Reg) (nn : Byte) : Statement (.addImm x nn) :=
  ⟨xnn_row _ _ _, and_zero _⟩

theorem setReg (x y : Reg) : Statement (.setReg x y) :=
  ⟨xy_row _ _ _ _, and_zero _⟩

theorem orReg (x y : Reg) : Statement (.orReg x y) :=
  ⟨xy_row _ _ _ _, and_zero _⟩

theorem andReg (x y : Reg) : Statement (.andReg x y) :=
  ⟨xy_row _ _ _ _, and_zero _⟩

theorem xorReg (x y : Reg) : Statement (.xorReg x y) :=
  ⟨xy_row _ _ _ _, and_zero _⟩

theorem addReg (x y : Reg) : Statement (.addReg x y) :=
  ⟨xy_row _ _ _ _, and_zero _⟩

theorem sub (x y : Reg) : Statement (.sub x y) :=
  ⟨xy_row _ _ _ _, and_zero _⟩

theorem shiftRight (x : Reg) : Statement (.shiftRight x) :=
  ⟨xy_row _ _ _ _, by
    rw [encode, Instr.ignoredBits, and_00F0]
    simp
    decide⟩

theorem subReverse (x y : Reg) : Statement (.subReverse x y) :=
  ⟨xy_row _ _ _ _, and_zero _⟩

theorem shiftLeft (x : Reg) : Statement (.shiftLeft x) :=
  ⟨xy_row _ _ _ _, by
    rw [encode, Instr.ignoredBits, and_00F0]
    simp
    decide⟩

theorem skipNeReg (x y : Reg) : Statement (.skipNeReg x y) :=
  ⟨xyn_row _ _ _ _, by
    rw [encode, Instr.ignoredBits, and_000F]
    simp
    decide⟩

theorem setIndex (nnn : Addr) : Statement (.setIndex nnn) :=
  ⟨nnn_row _ _, and_zero _⟩

theorem jumpOffset (nnn : Addr) : Statement (.jumpOffset nnn) :=
  ⟨nnn_row _ _, and_zero _⟩

theorem randomAnd (x : Reg) (nn : Byte) : Statement (.randomAnd x nn) :=
  ⟨xnn_row _ _ _, and_zero _⟩

theorem draw (x y : Reg) (n : Nat) : Statement (.draw x y n) :=
  ⟨xyn_row _ _ _ _, and_zero _⟩

theorem skipKeyPressed (x : Reg) : Statement (.skipKeyPressed x) :=
  ⟨x_row _ _ _, and_zero _⟩

theorem skipKeyNotPressed (x : Reg) : Statement (.skipKeyNotPressed x) :=
  ⟨x_row _ _ _, and_zero _⟩

theorem getDelay (x : Reg) : Statement (.getDelay x) :=
  ⟨x_row _ _ _, and_zero _⟩

theorem waitKey (x : Reg) : Statement (.waitKey x) :=
  ⟨x_row _ _ _, and_zero _⟩

theorem setDelay (x : Reg) : Statement (.setDelay x) :=
  ⟨x_row _ _ _, and_zero _⟩

theorem setSound (x : Reg) : Statement (.setSound x) :=
  ⟨x_row _ _ _, and_zero _⟩

theorem addIndex (x : Reg) : Statement (.addIndex x) :=
  ⟨x_row _ _ _, and_zero _⟩

theorem fontChar (x : Reg) : Statement (.fontChar x) :=
  ⟨x_row _ _ _, and_zero _⟩

theorem bcd (x : Reg) : Statement (.bcd x) :=
  ⟨x_row _ _ _, and_zero _⟩

theorem storeRegs (x : Reg) : Statement (.storeRegs x) :=
  ⟨x_row _ _ _, and_zero _⟩

theorem loadRegs (x : Reg) : Statement (.loadRegs x) :=
  ⟨x_row _ _ _, and_zero _⟩

end Sys2Proof.Laws.EncodingRow
end

