-- ==== Sys2Proof/Laws/Step.lean ====
section
/-! SUPPORT. The cases of a step (R72, R73, R205), said once. -/

namespace Sys2Proof.Machine

theorem State.running_or_halted (s : State) : s.Running ∨ s.Halted := by
  unfold State.Running State.Halted
  cases s.status.state <;> simp

theorem State.not_running_and_halted {s : State} (h : s.Running) : ¬s.Halted := by
  intro h'
  simp [State.Running, State.Halted] at h h'
  simp [h] at h'

/-- A halted block ignores the step. -/
theorem step_of_halted {s : State} (h : s.Halted) : step s = .next s := by
  have h' : s.status.state = .halted := h
  simp [step, h']

/-- A running block whose `pc` cannot be fetched from takes FetchError. -/
theorem step_of_fetch_none {s : State} (h : s.Running) (hf : fetch s = none) :
    step s = .next (takeFault .fetchError s.pc 0 s.pc s) := by
  have h' : s.status.state = .run := h
  simp [step, h', hf]

/-- A running block that fetches a word that does not decode takes DecodeError. -/
theorem step_of_decode_error {s : State} {w : Word} {e : DecodeError} (h : s.Running)
    (hf : fetch s = some w) (hd : decode w = .error e) :
    step s = .next (takeFault .decodeError s.pc w w s) := by
  have h' : s.status.state = .run := h
  simp [step, h', hf, hd]

/-- A running block that fetches an instruction executes it with `pc` advanced. -/
theorem step_of_fetches {s : State} {i : Instr} (h : s.Running) (hi : s.Fetches i) :
    step s = exec i s.advancePc := by
  have h' : s.status.state = .run := h
  obtain ⟨w, hf, hd⟩ := hi
  simp [step, h', hf, hd]

/-- Every state is one of the four. -/
theorem step_cases (s : State) :
    s.Halted ∨ (s.Running ∧ fetch s = none) ∨
      (s.Running ∧ ∃ w e, fetch s = some w ∧ decode w = .error e) ∨
      (s.Running ∧ ∃ i, s.Fetches i) := by
  rcases s.running_or_halted with h | h
  · cases hf : fetch s with
    | none => exact .inr (.inl ⟨h, rfl⟩)
    | some w =>
      cases hd : decode w with
      | error e => exact .inr (.inr (.inl ⟨h, w, e, rfl, hd⟩))
      | ok i => exact .inr (.inr (.inr ⟨h, i, w, hf, hd⟩))
  · exact .inl h

/-- The instruction that a state fetches is one only. -/
theorem State.Fetches.unique {s : State} {i j : Instr} (hi : s.Fetches i) (hj : s.Fetches j) : i = j := by
  obtain ⟨w, hw, hd⟩ := hi
  obtain ⟨w', hw', hd'⟩ := hj
  rw [hw] at hw'
  cases hw'
  rw [hd] at hd'
  cases hd'
  rfl

/-- In the execute phase of a step, `pc - 2` is the address of the instruction. -/
theorem State.instrAddr_advancePc (s : State) : s.advancePc.instrAddr = s.pc := by
  simp [State.instrAddr]

/-- A fault raised in the execute phase of a step is taken at the instruction (R201). -/
theorem raiseFault_advancePc (f : Fault) (info : Word) (s : State) :
    raiseFault f info s.advancePc = .next (takeFault f s.pc (wordAt s.mem s.pc.toNat) info s) := by
  rw [raiseFault, State.instrAddr_advancePc]
  rfl

end Sys2Proof.Machine
end

