-- ==== Sys2Proof/Laws/Transactions.lean ====
section
/-! SUPPORT. What the transactions beside `step` do (R210, R214, R215, R240, R241), said once. -/

namespace Sys2Proof.Machine

/-! ## tick (R210) -/

theorem countDown_toNat (b : Byte) : (countDown b).toNat = b.toNat - 1 := by
  unfold countDown
  split
  · next h => simp [h]
  · next h =>
    have : b.toNat ≠ 0 := fun e => h (BitVec.eq_of_toNat_eq (by simpa using e))
    have := b.isLt
    rw [BitVec.toNat_sub]
    simp
    omega

theorem tick_of_halted {s : State} (h : s.Halted) : tick s = s := by
  have h' : s.status.state = .halted := h
  simp [tick, h']

theorem tick_of_running {s : State} (h : s.Running) :
    tick s = (s.setDt (countDown s.dt)).setSt (countDown s.st) := by
  have h' : s.status.state = .run := h
  simp [tick, h', State.setDt, State.setSt]

/-! ## keys_in and rand_in (R38, R205) -/

theorem keysIn_of_running {s : State} (h : s.Running) (ks : BitVec 16) :
    keysIn ks s = { s with keys := keysOfBits ks } := by
  have h' : s.status.state = .run := h
  simp [keysIn, h']

theorem keysOfBits_getElem (ks : BitVec 16) (k : Fin 16) : (keysOfBits ks)[k] = ks.getLsbD k.val := by
  revert k
  simp [Fin.forall_fin_succ, keysOfBits]

theorem supplyRandom_of_running {s : State} (h : s.Running) (b : Byte) :
    supplyRandom b s = s.setRandIn (some b) := by
  have h' : s.status.state = .run := h
  simp [supplyRandom, h']

theorem supplyRandom_of_halted {s : State} (h : s.Halted) (b : Byte) : supplyRandom b s = s := by
  have h' : s.status.state = .halted := h
  simp [supplyRandom, h']

@[simp] theorem restoreRandIn_next (before : Option Byte) (t : State) :
    restoreRandIn before (.next t) = .next (t.setRandIn before) := rfl

/-- The host's step of a running block. -/
theorem hostStep_of_running {s : State} (h : s.Running) (b : Byte) :
    hostStep b s = restoreRandIn s.randIn (step (s.setRandIn (some b))) := by
  rw [hostStep, supplyRandom_of_running h]

/-- A halted block ignores the host's step. -/
theorem hostStep_of_halted {s : State} (h : s.Halted) (b : Byte) : hostStep b s = .next s := by
  rw [hostStep, supplyRandom_of_halted h, step_of_halted h]
  rfl

/-- The host's step runs the instruction at `pc` with the byte on the port. -/
theorem hostStep_of_fetches {s : State} {i : Instr} (h : s.Running) (hi : s.Fetches i) (b : Byte) :
    hostStep b s = restoreRandIn s.randIn (exec i (s.advancePc.setRandIn (some b))) := by
  rw [hostStep_of_running h, step_of_fetches (s := s.setRandIn (some b)) h hi]
  rfl

/-! ## load (R240, R241) -/

/-- A load of an image that fits: the reset state but for memory (and the model's own count of free values). -/
theorem load_of_fits {image : List Byte} (h : image.length ≤ 3584) (memInit : Nat → Byte)
    (rest s : State) :
    load memInit image rest s =
      { State.reset with
        mem := Memory.tabulate (loadedByte memInit image), freeDraws := s.freeDraws } := by
  unfold load
  rw [if_neg]
  unfold maxImage Config.memSize Config.progBase
  omega

/-- A load of an image that does not fit. -/
theorem load_of_too_long {image : List Byte} (h : 3585 ≤ image.length) (memInit : Nat → Byte)
    (rest s : State) :
    load memInit image rest s =
      { rest with
        status := { state := .halted, code := some .loadError }
        faultPc := 0
        faultWord := 0
        faultInfo := 0
        freeDraws := s.freeDraws } := by
  unfold load
  rw [if_pos]
  unfold maxImage Config.memSize Config.progBase
  omega

/-- Memory after a load of an image that fits. -/
theorem read_load_of_fits {image : List Byte} (h : image.length ≤ 3584) (memInit : Nat → Byte)
    (rest s : State) {a : Nat} (ha : a < 4096) :
    Memory.read (load memInit image rest s).mem a = loadedByte memInit image a := by
  rw [load_of_fits h, Memory.read_tabulate _ ha]

/-- An image byte. -/
theorem loadedByte_image (memInit : Nat → Byte) (image : List Byte) {k : Nat} (h : k < image.length) :
    loadedByte memInit image (0x200 + k) = image[k] := by
  unfold loadedByte Config.progBase
  rw [if_pos (by omega), Nat.add_sub_cancel_left, List.getD_eq_getElem _ _ h]

/-- A font byte. -/
theorem loadedByte_font (memInit : Nat → Byte) (image : List Byte) {k : Nat} (h : k < 80) :
    loadedByte memInit image (0x50 + k) = Config.fontBytes.getD k 0 := by
  unfold loadedByte Config.progBase Config.fontBase Config.fontSize
  rw [if_neg (by omega), if_pos (by omega), Nat.add_sub_cancel_left]

/-- Any other byte. -/
theorem loadedByte_rest (memInit : Nat → Byte) (image : List Byte) {a : Nat}
    (hf : ¬(0x50 ≤ a ∧ a < 0xA0)) (hi : ¬(0x200 ≤ a ∧ a < 0x200 + image.length)) :
    loadedByte memInit image a = memInit a := by
  unfold loadedByte Config.progBase Config.fontBase Config.fontSize
  rw [if_neg hi, if_neg (by omega)]

end Sys2Proof.Machine
end

