-- ==== Sys2Proof/Machine/Assembly.lean ====
section
/-! DEFINITION. The assembly spelling of an instruction (spec 30_encoding.md R83): the source's operation names, registers `V0` to
`VF`, immediates as `0x0A`, addresses as `0x250`. No meaning depends on it. -/

namespace Sys2Proof.Machine

/-- A hexadecimal digit, upper case. -/
def hexDigit (d : Nat) : String :=
  ["0", "1", "2", "3", "4", "5", "6", "7", "8", "9", "A", "B", "C", "D", "E", "F"].getD d "?"

/-- `V0` to `VF`. -/
def asmReg (x : Reg) : String := "V" ++ hexDigit x.val

/-- A byte as two hexadecimal digits. -/
def asmByte (b : Byte) : String := "0x" ++ hexDigit (b.toNat / 16) ++ hexDigit (b.toNat % 16)

/-- An address as three hexadecimal digits. -/
def asmAddr (a : Addr) : String :=
  "0x" ++ hexDigit (a.toNat / 256) ++ hexDigit (a.toNat / 16 % 16) ++ hexDigit (a.toNat % 16)

/-- One register operand. -/
def asmX (name : String) (x : Reg) : String := name ++ " " ++ asmReg x

/-- Two register operands. -/
def asmXY (name : String) (x y : Reg) : String := name ++ " " ++ asmReg x ++ "," ++ asmReg y

/-- A register and an immediate. -/
def asmXNN (name : String) (x : Reg) (nn : Byte) : String := name ++ " " ++ asmReg x ++ "," ++ asmByte nn

/-- An address operand. -/
def asmNNN (name : String) (nnn : Addr) : String := name ++ " " ++ asmAddr nnn

/-- The primary spelling of R83. DESIGN CHOICE (log entry 29): R83 does not say how the row count of `draw` is spelled; it is printed
in decimal, without a prefix, so that 10 to 15 have two digits. -/
def assembly : Instr → String
  | .clearDisplay => "clear-display"
  | .ret => "return"
  | .jump nnn => asmNNN "jump" nnn
  | .call nnn => asmNNN "call" nnn
  | .skipEqImm x nn => asmXNN "skip-eq-imm" x nn
  | .skipNeImm x nn => asmXNN "skip-ne-imm" x nn
  | .skipEqReg x y => asmXY "skip-eq-reg" x y
  | .setImm x nn => asmXNN "set-imm" x nn
  | .addImm x nn => asmXNN "add-imm" x nn
  | .setReg x y => asmXY "set-reg" x y
  | .orReg x y => asmXY "or" x y
  | .andReg x y => asmXY "and" x y
  | .xorReg x y => asmXY "xor" x y
  | .addReg x y => asmXY "add-reg" x y
  | .sub x y => asmXY "sub" x y
  | .shiftRight x => asmX "shift-right" x
  | .subReverse x y => asmXY "sub-reverse" x y
  | .shiftLeft x => asmX "shift-left" x
  | .skipNeReg x y => asmXY "skip-ne-reg" x y
  | .setIndex nnn => asmNNN "set-index" nnn
  | .jumpOffset nnn => asmNNN "jump-offset" nnn
  | .randomAnd x nn => asmXNN "random-and" x nn
  | .draw x y n => asmXY "draw" x y ++ "," ++ toString n
  | .skipKeyPressed x => asmX "skip-key-pressed" x
  | .skipKeyNotPressed x => asmX "skip-key-not-pressed" x
  | .getDelay x => asmX "get-delay" x
  | .waitKey x => asmX "wait-key" x
  | .setDelay x => asmX "set-delay" x
  | .setSound x => asmX "set-sound" x
  | .addIndex x => asmX "add-index" x
  | .fontChar x => asmX "font-char" x
  | .bcd x => asmX "bcd" x
  | .storeRegs x => asmX "store-regs" x
  | .loadRegs x => asmX "load-regs" x

end Sys2Proof.Machine
end

