-- ==== Sys2Proof/Tests/Slice0.lean ====
section
/-! SUPPORT. Tests. Expected results come from spec/95_test_vectors.md (the vector's number stands beside each test) or from the
encodings and rules of spec/30_encoding.md. The last part shows, for every obligation with hypotheses, concrete inputs that meet
them together. -/

namespace Sys2Proof.Tests

open Sys2Proof Sys2Proof.Machine

/-! ## Helpers -/

/-- One step of `s` with the word `w` at its `pc`. -/
def run1 (w : Nat) (s : State) : Result := step (s.withFetchWord 16 w)

/-- The answer is a next state of which `p` holds. -/
def after (r : Result) (p : State → Bool) : Bool :=
  match r with
  | .next t => p t
  | .fault _ | .refused _ => false

/-- The next state of an answer. -/
def next (r : Result) : State :=
  match r with
  | .next t => t
  | .fault _ | .refused _ => State.reset

/-- The start state of the vectors (R240). -/
def s0 : State := State.reset

/-- The start state with other bytes from an address on. -/
def withBytes (s : State) (a : Nat) (bs : List Byte) : State :=
  s.setMem (Memory.writeBytes s.mem a bs)

/-- The start state with one key pressed. -/
def withKey (s : State) (k : Fin 16) : State := { s with keys := s.keys.set k true }

/-- The block is halted with the fault at `pc`, and `SP` and `I` are what they were. -/
def haltedBy (f : Fault) (pc w : Word) (s t : State) : Bool :=
  t.status == { state := .halted, code := some f } && t.faultPc == pc && t.faultWord == w && t.pc == pc &&
    t.sp == s.sp && t.i == s.i && t.v == s.v && t.mem == (s.withFetchWord 16 w.toNat).mem

/-! ## Well-formed instructions -/

theorem test_wellFormed_refuses_sixteen_rows : (Instr.draw 0 0 16).wellFormed = false := by decide
theorem test_wellFormed_accepts_fifteen_rows : (Instr.draw 0 0 15).wellFormed = true := by decide

/-! ## Decoding: one word of every row, written out nibble by nibble from R78 -/

theorem test_decode_clearDisplay : decode 0b0000_0000_1110_0000 = .ok .clearDisplay := by decide
theorem test_decode_ret : decode 0b0000_0000_1110_1110 = .ok .ret := by decide
theorem test_decode_jump : decode 0b0001_0010_0011_0100 = .ok (.jump 0x234) := by decide
theorem test_decode_call : decode 0b0010_1010_1011_1100 = .ok (.call 0xABC) := by decide
theorem test_decode_skipEqImm : decode 0b0011_0011_0010_1010 = .ok (.skipEqImm 3 0x2A) := by decide
theorem test_decode_skipNeImm : decode 0b0100_1111_0000_0001 = .ok (.skipNeImm 15 0x01) := by decide
theorem test_decode_skipEqReg : decode 0b0101_0001_0010_0000 = .ok (.skipEqReg 1 2) := by decide
theorem test_decode_setImm : decode 0b0110_1111_1010_1011 = .ok (.setImm 15 0xAB) := by decide
theorem test_decode_addImm : decode 0b0111_0010_0000_0011 = .ok (.addImm 2 0x03) := by decide
theorem test_decode_setReg : decode 0b1000_0001_0101_0000 = .ok (.setReg 1 5) := by decide
theorem test_decode_orReg : decode 0b1000_0110_0111_0001 = .ok (.orReg 6 7) := by decide
theorem test_decode_andReg : decode 0b1000_0110_0111_0010 = .ok (.andReg 6 7) := by decide
theorem test_decode_xorReg : decode 0b1000_0110_0111_0011 = .ok (.xorReg 6 7) := by decide
theorem test_decode_addReg : decode 0b1000_1111_0001_0100 = .ok (.addReg 15 1) := by decide
theorem test_decode_sub : decode 0b1000_0000_0001_0101 = .ok (.sub 0 1) := by decide
theorem test_decode_shiftRight : decode 0b1000_0001_0010_0110 = .ok (.shiftRight 1) := by decide
theorem test_decode_subReverse : decode 0b1000_0000_0001_0111 = .ok (.subReverse 0 1) := by decide
theorem test_decode_shiftLeft : decode 0b1000_0011_0000_1110 = .ok (.shiftLeft 3) := by decide
theorem test_decode_skipNeReg : decode 0b1001_0001_0010_0000 = .ok (.skipNeReg 1 2) := by decide
theorem test_decode_setIndex : decode 0b1010_0010_0101_0000 = .ok (.setIndex 0x250) := by decide
theorem test_decode_jumpOffset : decode 0b1011_0101_0000_0000 = .ok (.jumpOffset 0x500) := by decide
theorem test_decode_randomAnd : decode 0b1100_0001_0000_1111 = .ok (.randomAnd 1 0x0F) := by decide
theorem test_decode_draw : decode 0b1101_0001_0010_0101 = .ok (.draw 1 2 5) := by decide
theorem test_decode_skipKeyPressed : decode 0b1110_0010_1001_1110 = .ok (.skipKeyPressed 2) := by decide
theorem test_decode_skipKeyNotPressed : decode 0b1110_0010_1010_0001 = .ok (.skipKeyNotPressed 2) := by decide
theorem test_decode_getDelay : decode 0b1111_0101_0000_0111 = .ok (.getDelay 5) := by decide
theorem test_decode_waitKey : decode 0b1111_0011_0000_1010 = .ok (.waitKey 3) := by decide
theorem test_decode_setDelay : decode 0b1111_0101_0001_0101 = .ok (.setDelay 5) := by decide
theorem test_decode_setSound : decode 0b1111_0001_0001_1000 = .ok (.setSound 1) := by decide
theorem test_decode_addIndex : decode 0b1111_0001_0001_1110 = .ok (.addIndex 1) := by decide
theorem test_decode_fontChar : decode 0b1111_0100_0010_1001 = .ok (.fontChar 4) := by decide
theorem test_decode_bcd : decode 0b1111_0000_0011_0011 = .ok (.bcd 0) := by decide
theorem test_decode_storeRegs : decode 0b1111_0001_0101_0101 = .ok (.storeRegs 1) := by decide
theorem test_decode_loadRegs : decode 0b1111_0010_0110_0101 = .ok (.loadRegs 2) := by decide

/-- The rejected words of T5 to T11, by name (R80). -/
theorem test_decode_rejects :
    ([0x0000, 0x8008, 0x800F, 0xE09F, 0xF000, 0xF0FF, 0x00FF] : List Word).all
      (fun w => decode w = .error (.illegalWord w)) = true := by decide

/-- R79: the words of T12, T13, T14, T15 and T16. -/
theorem test_decode_unexamined_bits :
    decode 0x0FE0 = .ok .clearDisplay ∧ decode 0x05EE = .ok .ret ∧ decode 0x5127 = .ok (.skipEqReg 1 2) ∧
      decode 0x912F = .ok (.skipNeReg 1 2) ∧ decode 0x8126 = .ok (.shiftRight 1) := by decide

/-- R70: big-endian bytes, and nothing from one byte. -/
theorem test_decode_bytes :
    decodeBytes [0xA2, 0x50, 0x60] = .ok (.setIndex 0x250, [0x60]) ∧ decodeBytes [0xA2] = .error .truncated := by
  decide

theorem test_decode_table_word : decodeTableWord 16 0xA250 = some (.setIndex 0x250) := by decide

/-- Words of the listings P1 to P3. -/
theorem test_encode :
    encode (.skipEqImm 0 0x05) = 0x3005 ∧ encode (.draw 0 0 5) = 0xD005 ∧ encode (.call 0x210) = 0x2210 ∧
      encode (.loadRegs 2) = 0xF265 := by decide

/-- The listings P1 to P3 (R83). -/
theorem test_assembly :
    assembly (.setImm 0 0x9C) = "set-imm V0,0x9C" ∧ assembly (.draw 0 0 5) = "draw V0,V0,5" ∧
      assembly (.jump 0x20C) = "jump 0x20C" ∧ assembly .ret = "return" := by decide

/-! ## Fetch and the step (T1 to T5) -/

/-- T1 -/
theorem test_fetch_last_address :
    after (run1 0x1200 (s0.setPc 0xFFE)) (fun t => t.pc == 0x200) = true := by decide
/-- T2, T3 -/
theorem test_fetch_error :
    (after (step (s0.setPc 0xFFF)) fun t =>
      t.status == { state := .halted, code := some .fetchError } && t.faultPc == 0xFFF && t.faultWord == 0) = true ∧
    (after (step (s0.setPc 0x1000)) fun t => t.faultPc == 0x1000 && t.pc == 0x1000) = true := by decide
/-- T4 -/
theorem test_odd_pc :
    after (run1 0x6005 (s0.setPc 0x201)) (fun t => t.getV 0 == 0x05 && t.pc == 0x203) = true := by decide
/-- T5, T151 -/
theorem test_decode_error :
    after (step s0) (fun t => haltedBy .decodeError 0x200 0x0000 s0 t) = true := by decide

/-! ## Control flow (T20 to T38) -/

/-- T21 -/
theorem test_jump_top : after (run1 0x1FFF s0) (fun t => t.pc == 0xFFF) = true := by decide
/-- T22 -/
theorem test_call : after (run1 0x2300 (s0.setPc 0x204)) (fun t =>
    t.getStack 0 == 0x206 && t.sp == 1 && t.pc == 0x300) = true := by decide
/-- T24 -/
theorem test_call_overflow : after (run1 0x2300 (s0.setSp 16)) (fun t =>
    haltedBy .stackOverflow 0x200 0x2300 (s0.setSp 16) t) = true := by decide
/-- T25 -/
theorem test_return : after (run1 0x00EE (((s0.setSp 1).setStack 0 0x206).setPc 0x300)) (fun t =>
    t.sp == 0 && t.pc == 0x206 && t.getStack 0 == 0x206) = true := by decide
/-- T26 -/
theorem test_return_underflow : after (run1 0x00EE s0) (fun t =>
    haltedBy .stackUnderflow 0x200 0x00EE s0 t) = true := by decide
/-- T29, T28 -/
theorem test_skipEqImm :
    after (run1 0x3F01 (s0.setV 15 0x01)) (fun t => t.pc == 0x204) = true ∧
    after (run1 0x332A (s0.setV 3 0x2B)) (fun t => t.pc == 0x202) = true := by decide
/-- T30, T31 -/
theorem test_skipNeImm :
    after (run1 0x4001 s0) (fun t => t.pc == 0x204) = true ∧
    after (run1 0x4001 (s0.setV 0 0x01)) (fun t => t.pc == 0x202) = true := by decide
/-- T32 -/
theorem test_skipEqReg : after (run1 0x5440 (s0.setV 4 0x99)) (fun t => t.pc == 0x204) = true := by decide
/-- T33, T15 -/
theorem test_skipNeReg :
    after (run1 0x9440 (s0.setV 4 0x99)) (fun t => t.pc == 0x202) = true ∧
    after (run1 0x912F ((s0.setV 1 7).setV 2 8)) (fun t => t.pc == 0x204) = true := by decide
/-- T35, T36 -/
theorem test_jumpOffset :
    after (run1 0xBFFF (s0.setV 0 0xFF)) (fun t => t.pc == 0x10FE) = true ∧
    after (run1 0xB500 ((s0.setV 0 0x01).setV 5 0x40)) (fun t => t.pc == 0x501) = true := by decide
/-- T37 -/
theorem test_skip_past_memory : after (run1 0x3000 (s0.setPc 0xFFC)) (fun t => t.pc == 0x1000) = true := by
  decide

/-! ## Registers and ALU (T40 to T70, E1, E2) -/

/-- T40 -/
theorem test_setImm : after (run1 0x6FAB s0) (fun t => t.getV 15 == 0xAB && t.pc == 0x202) = true := by decide
/-- T41 -/
theorem test_addImm_no_flag : after (run1 0x7203 ((s0.setV 2 0xFE).setV 15 0x07)) (fun t =>
    t.getV 2 == 0x01 && t.getV 15 == 0x07) = true := by decide
/-- T43 -/
theorem test_setReg : after (run1 0x8150 (s0.setV 5 0x33)) (fun t =>
    t.getV 1 == 0x33 && t.getV 5 == 0x33) = true := by decide
/-- T44 to T46 -/
theorem test_logic :
    let s := ((s0.setV 0 0x0C).setV 1 0x0A).setV 15 0x05
    after (run1 0x8011 s) (fun t => t.getV 0 == 0x0E && t.getV 15 == 0x05) = true ∧
    after (run1 0x8012 s) (fun t => t.getV 0 == 0x08 && t.getV 15 == 0x05) = true ∧
    after (run1 0x8013 s) (fun t => t.getV 0 == 0x06 && t.getV 15 == 0x05) = true := by decide
/-- T48, T49 -/
theorem test_addReg :
    after (run1 0x8F14 ((s0.setV 15 0x10).setV 1 0xF5)) (fun t => t.getV 15 == 0x01) = true ∧
    after (run1 0x81F4 ((s0.setV 1 0x10).setV 15 0xF5)) (fun t =>
      t.getV 1 == 0x05 && t.getV 15 == 0x01) = true := by decide
/-- T52, E2 -/
theorem test_sub :
    after (run1 0x8015 ((s0.setV 0 0x42).setV 1 0x42)) (fun t => t.getV 0 == 0x00 && t.getV 15 == 0) = true ∧
    after (run1 0x8015 ((s0.setV 0 0x0A).setV 1 0x03)) (fun t => t.getV 0 == 0x07 && t.getV 15 == 1) = true := by
  decide
/-- T55, T57 -/
theorem test_subReverse :
    after (run1 0x8017 ((s0.setV 0 0x03).setV 1 0x0A)) (fun t => t.getV 0 == 0x07 && t.getV 15 == 1) = true ∧
    after (run1 0x8017 ((s0.setV 0 0x0A).setV 1 0x03)) (fun t => t.getV 0 == 0xF9 && t.getV 15 == 0) = true := by
  decide
/-- T16, T61 -/
theorem test_shiftRight :
    after (run1 0x8126 ((s0.setV 1 0x05).setV 2 0xFF)) (fun t =>
      t.getV 1 == 0x02 && t.getV 15 == 1 && t.getV 2 == 0xFF) = true ∧
    after (run1 0x8F06 (s0.setV 15 0x03)) (fun t => t.getV 15 == 0x01) = true := by decide
/-- T63, T65 -/
theorem test_shiftLeft :
    after (run1 0x830E (s0.setV 3 0xC1)) (fun t => t.getV 3 == 0x82 && t.getV 15 == 1) = true ∧
    after (run1 0x830E (s0.setV 3 0x01)) (fun t => t.getV 3 == 0x02 && t.getV 15 == 0) = true := by decide
/-- T68 -/
theorem test_randomAnd_supplied : after (run1 0xC10F (supplyRandom 0xB7 s0)) (fun t =>
    t.getV 1 == 0x07 && t.randIn == none) = true := by decide
/-- T70, in the host's step, with the port given back empty -/
theorem test_randomAnd_host_step : after (transact (.step 0xAB) (s0.withFetchWord 16 0xC0F0)) (fun t =>
    t.getV 0 == 0xA0 && t.randIn == none && t.freeDraws == 0 && t.pc == 0x202) = true := by decide
/-- T69, with no byte supplied: the result holds for every free byte. -/
theorem test_randomAnd_free : next (exec (.randomAnd 1 0x00) s0) = s0.countDraw := by
  simp [exec, execRandomAnd, State.randomByte, next, s0, State.reset, State.setV, State.countDraw]

/-! ## Display (T80 to T90) -/

/-- A display with every cell on. -/
def allOn : State := s0.setDisp (Vector.replicate 32 (BitVec.allOnes 64))

/-- The rows of a display that differ from an empty one, in the order of a hand-drawn picture: bit `c` is column `c`. -/
def rowsOf (s : State) (rs : List Nat) : List (BitVec 64) := rs.map fun r => s.disp[r]?.getD 0

/-- T80 -/
theorem test_clearDisplay : after (run1 0x00E0 (allOn.setV 15 0x07)) (fun t =>
    t.disp == Vector.replicate 32 0 && t.getV 15 == 0x07) = true := by decide
/-- T82: the wrap on both axes -/
theorem test_draw_wraps :
    after (run1 0xD015 (((s0.setV 0 62).setV 1 30).setI 0x050)) (fun t =>
      rowsOf t [30, 31, 0, 1, 2, 3] ==
        [0xC000000000000003, 0x4000000000000002, 0x4000000000000002, 0x4000000000000002, 0xC000000000000003, 0] &&
      t.getV 15 == 0) = true := by decide
/-- T84: glyph 1 over glyph 0 (rows 0x0F, 0x09, 0x09, 0x09, 0x0F with bit `c` for column `c`) -/
theorem test_draw_collides :
    let d := (((((Vector.replicate 32 (0 : BitVec 64)).set 0 0xF).set 1 0x9).set 2 0x9).set 3 0x9).set 4 0xF
    after (run1 0xD015 ((s0.setDisp d).setI 0x055)) (fun t =>
      rowsOf t [0, 1, 2, 3, 4, 5] == [0xB, 0xF, 0xD, 0xD, 0x1, 0] && t.getV 15 == 1) = true := by decide
/-- T86, T87: no range check without rows, and the fault -/
theorem test_draw_bounds :
    after (run1 0xD010 ((s0.setI 0xFFFF).setV 15 0x01)) (fun t => t.getV 15 == 0 && t.pc == 0x202) = true ∧
    after (run1 0xD005 (s0.setI 0xFFC)) (fun t =>
      haltedBy .memoryBoundsError 0x200 0xD005 (s0.setI 0xFFC) t) = true := by decide

/-! ## Keys and timers (T100 to T116) -/

/-- T100, T103 -/
theorem test_skipKeyPressed :
    after (run1 0xE29E ((withKey s0 5).setV 2 0x05)) (fun t => t.pc == 0x204) = true ∧
    after (run1 0xE09E (s0.setV 0 0x10)) (fun t =>
      haltedBy .keyIndexError 0x200 0xE09E (s0.setV 0 0x10) t) = true := by decide
/-- T102 -/
theorem test_skipKeyNotPressed : after (run1 0xE2A1 (s0.setV 2 0x05)) (fun t => t.pc == 0x204) = true := by
  decide
/-- T104 -/
theorem test_keyIndex_mask : keyIndex .mask 0x10 = some 0 := by decide
/-- T105, T106 -/
theorem test_waitKey :
    run1 0xF30A s0 = .next (s0.withFetchWord 16 0xF30A) ∧
    after (run1 0xF30A (withKey s0 10)) (fun t => t.getV 3 == 0x0A && t.pc == 0x202) = true := by
  refine ⟨rfl, by decide⟩
/-- T107: either key, and each of them for some choice -/
theorem test_waitKey_choice :
    (withKey (withKey s0 2) 7).pressedKeys = [2, 7] ∧ chooseKey 0 2 [7] = 2 ∧ chooseKey 1 2 [7] = 7 ∧
      chooseKey 6 2 [7] = 2 := by decide
/-- T109 -/
theorem test_getDelay : after (run1 0xF507 (s0.setDt 0x3C)) (fun t =>
    t.getV 5 == 0x3C && t.dt == 0x3C) = true := by decide
/-- T110 -/
theorem test_setDelay : after (run1 0xF515 (s0.setV 5 0x3C)) (fun t => t.dt == 0x3C && t.st == 0) = true := by
  decide
/-- T111 -/
theorem test_setSound : after (run1 0xF118 (s0.setV 1 0x02)) (fun t => t.st == 0x02 && toneOut t) = true := by
  decide
/-- T112, T113 -/
theorem test_tick :
    (tick ((s0.setDt 1).setSt 5)).dt = 0 ∧ (tick ((s0.setDt 1).setSt 5)).st = 4 ∧
      (tick (s0.setSt 1)).dt = 0 ∧ toneOut (tick (s0.setSt 1)) = false := by decide

/-! ## Index register and memory (T120 to T141, E6) -/

/-- T120 -/
theorem test_setIndex : after (run1 0xA250 s0) (fun t => t.i == 0x250) = true := by decide
/-- T121, T125 -/
theorem test_addIndex :
    after (run1 0xF11E (((s0.setI 0xFFF).setV 1 0x01).setV 15 0x07)) (fun t =>
      t.i == 0x1000 && t.getV 15 == 0) = true ∧
    after (run1 0xFF1E ((s0.setI 0x0100).setV 15 0x10)) (fun t => t.i == 0x0110 && t.getV 15 == 0) = true := by
  decide
/-- T122 -/
theorem test_addIndex_wraps : after (run1 0xF11E ((s0.setI 0xFFFF).setV 1 0x02)) (fun t =>
    t.i == 0x0001 && t.getV 15 == 1) = true := by decide
/-- T127, T128 -/
theorem test_fontChar :
    after (run1 0xF029 (s0.setV 0 0x0F)) (fun t => t.i == 0x009B) = true ∧
    after (run1 0xF029 (s0.setV 0 0x1A)) (fun t => t.i == 0x0082) = true := by decide
/-- T132, T133 -/
theorem test_bcd :
    after (run1 0xF033 ((s0.setV 0 0xFF).setI 0xFFD)) (fun t =>
      Memory.readBytes t.mem 0xFFD 3 == [2, 5, 5] && t.i == 0xFFD) = true ∧
    after (run1 0xF033 ((s0.setV 0 0xFF).setI 0xFFE)) (fun t =>
      haltedBy .memoryBoundsError 0x200 0xF033 ((s0.setV 0 0xFF).setI 0xFFE) t) = true := by decide
/-- T134, T137 -/
theorem test_storeRegs :
    after (run1 0xF255 ((((s0.setV 0 1).setV 1 2).setV 2 3).setI 0x400)) (fun t =>
      Memory.readBytes t.mem 0x3FF 5 == [0, 1, 2, 3, 0] && t.i == 0x400) = true ∧
    after (run1 0xFF55 (s0.setI 0xFF1)) (fun t =>
      haltedBy .memoryBoundsError 0x200 0xFF55 (s0.setI 0xFF1) t) = true := by decide
/-- T138, T140 -/
theorem test_loadRegs :
    after (run1 0xF265 ((withBytes s0 0x300 [1, 5, 6]).setI 0x300 |>.setV 3 0x77)) (fun t =>
      t.getV 0 == 1 && t.getV 1 == 5 && t.getV 2 == 6 && t.getV 3 == 0x77) = true ∧
    after (run1 0xF065 (s0.setI 0x1000)) (fun t =>
      haltedBy .memoryBoundsError 0x200 0xF065 (s0.setI 0x1000) t) = true := by decide
/-- R51, R52: the first and the last glyph -/
theorem test_font :
    Memory.readBytes s0.mem 0x50 5 = [0xF0, 0x90, 0x90, 0x90, 0xF0] ∧
      Memory.readBytes s0.mem 0x9B 6 = [0xF0, 0x80, 0xF0, 0x80, 0x80, 0x00] := by decide

/-! ## Witnesses: for every obligation with hypotheses, inputs that meet them together, at the boundaries of each clause -/

/-- The start state with a word at its `pc`. -/
def at_ (w : Nat) (s : State) : State := s.withFetchWord 16 w

theorem s0_running : s0.Running := rfl

/-- A halted state: T116. -/
def sHalted : State := { s0 with status := { state := .halted, code := some .decodeError } }

/-- DecodeOfEncodeIsTheInstruction -/
theorem test_witness_decodeOfEncode :
    (Instr.draw 1 2 0).wellFormed = true ∧ (Instr.draw 15 15 15).wellFormed = true ∧
      (Instr.loadRegs 15).wellFormed = true := by decide

/-- DecodedWordsFollowTheirRow -/
theorem test_witness_decodedWords : decode 0x05EE = .ok .ret ∧ decode 0xFF65 = .ok (.loadRegs 15) := by decide

/-- EveryRowWordDecodesToItsRow -/
theorem test_witness_everyRowWord :
    (0x0FE0 : Word) &&& Instr.clearDisplay.rowMask = Instr.clearDisplay.rowMatch ∧
      (0x8FFE : Word) &&& (Instr.shiftLeft 0).rowMask = (Instr.shiftLeft 0).rowMatch ∧
      (0x8FFE : Word) &&& (Instr.shiftLeft 15).rowMask = (Instr.shiftLeft 15).rowMatch := by decide

/-- UnexaminedBitsDoNotMatter: the three clauses, with both families of the second and both selectors of the third -/
theorem test_witness_unexaminedBits :
    (opField 0x00EE = 0x0 ∧ opField 0x0FEE = 0x0 ∧ nnField 0x00EE = nnField 0x0FEE ∧ decode 0x00EE = .ok .ret) ∧
    (opField 0x5120 = 0x5 ∧ opField 0x512F = opField 0x5120 ∧ xField 0x512F = xField 0x5120 ∧
      yField 0x512F = yField 0x5120) ∧
    (opField 0x9120 = 0x9 ∧ opField 0x912F = opField 0x9120 ∧ xField 0x912F = xField 0x9120 ∧
      yField 0x912F = yField 0x9120) ∧
    (opField 0x8106 = 0x8 ∧ nField 0x8106 = 0x6 ∧ opField 0x81F6 = 0x8 ∧ nField 0x81F6 = nField 0x8106 ∧
      xField 0x81F6 = xField 0x8106) ∧
    (opField 0x810E = 0x8 ∧ nField 0x810E = 0xE ∧ opField 0x81FE = 0x8 ∧ nField 0x81FE = nField 0x810E ∧
      xField 0x81FE = xField 0x810E) := by decide

/-- IllegalWordsHaltWithDecodeError: a running state at an illegal word of each family -/
theorem test_witness_illegalWords :
    (at_ 0x00EF s0).Running ∧ fetch (at_ 0x00EF s0) = some 0x00EF ∧ IllegalWord 0x00EF ∧
      fetch (at_ 0x800F s0) = some 0x800F ∧ IllegalWord 0x800F ∧
      fetch (at_ 0xE09F s0) = some 0xE09F ∧ IllegalWord 0xE09F ∧
      fetch (at_ 0xF066 s0) = some 0xF066 ∧ IllegalWord 0xF066 := by
  refine ⟨rfl, by decide, ?_, by decide, ?_, by decide, ?_, by decide, ?_⟩ <;> unfold IllegalWord <;> decide

/-- StepRunsTheDecodedInstruction, at the last address that can be fetched from too -/
theorem test_witness_stepRuns :
    ((at_ 0x1234 s0).Running ∧ (at_ 0x1234 s0).Fetches (.jump 0x234)) ∧
    (at_ 0x1200 (s0.setPc 0xFFE)).Running ∧ (at_ 0x1200 (s0.setPc 0xFFE)).Fetches (.jump 0x200) :=
  ⟨⟨rfl, 0x1234, by decide, by decide⟩, rfl, 0x1200, by decide, by decide⟩

/-- FetchReadsBigEndianOrFaults: both clauses at the boundary -/
theorem test_witness_fetch :
    (s0.setPc 0xFFE).pc.toNat + 1 ≤ 0xFFF ∧ (0xFFF < (s0.setPc 0xFFF).pc.toNat + 1 ∧ (s0.setPc 0xFFF).Running) :=
  ⟨by decide, by decide, rfl⟩

/-- FaultsArePrecise: a fault of the fetch, of the decoder and of the execute phase -/
theorem test_witness_faults :
    ((s0.setPc 0xFFF).Running ∧ ∃ t, step (s0.setPc 0xFFF) = .next t ∧ t.Halted) ∧
    (s0.Running ∧ ∃ t, step s0 = .next t ∧ t.Halted) ∧
    ((at_ 0x00EE s0).Running ∧ ∃ t, step (at_ 0x00EE s0) = .next t ∧ t.Halted) :=
  ⟨⟨rfl, _, rfl, rfl⟩, ⟨rfl, _, rfl, rfl⟩, ⟨rfl, _, rfl, rfl⟩⟩

/-- StepFaultsExactlyOnItsCauses: a running state, with the cause of a fault -/
theorem test_witness_causes :
    ((s0.setPc 0xFFF).Running ∧ FaultCause .fetchError (s0.setPc 0xFFF)) ∧
    ((at_ 0x800F s0).Running ∧ FaultCause .decodeError (at_ 0x800F s0)) ∧
    ((at_ 0x2300 (s0.setSp 16)).Running ∧ FaultCause .stackOverflow (at_ 0x2300 (s0.setSp 16))) ∧
    ((at_ 0x00EE s0).Running ∧ FaultCause .stackUnderflow (at_ 0x00EE s0)) ∧
    ((at_ 0xE09E (s0.setV 0 16)).Running ∧ FaultCause .keyIndexError (at_ 0xE09E (s0.setV 0 16))) ∧
    ((at_ 0xE0A1 (s0.setV 0 16)).Running ∧ FaultCause .keyIndexError (at_ 0xE0A1 (s0.setV 0 16))) :=
  ⟨⟨rfl, show 0xFFF < (0xFFF : Word).toNat + 1 by decide⟩,
    ⟨rfl, 0x800F, by decide, by unfold IllegalWord; decide⟩,
    ⟨rfl, 0x300, ⟨0x2300, by decide, by decide⟩, by decide⟩,
    ⟨rfl, ⟨0x00EE, by decide, by decide⟩, rfl⟩,
    ⟨rfl, 0, .inl ⟨0xE09E, by decide, by decide⟩, by decide⟩,
    ⟨rfl, 0, .inr ⟨0xE0A1, by decide, by decide⟩, by decide⟩⟩

/-- StepFaultsExactlyOnItsCauses: the last fault, for each instruction that raises it, at the first address that does -/
theorem test_witness_causes_memory :
    FaultCause .memoryBoundsError (at_ 0xD001 (s0.setI 0x1000)) ∧
    FaultCause .memoryBoundsError (at_ 0xD00F (s0.setI 0xFF2)) ∧
    FaultCause .memoryBoundsError (at_ 0xF033 (s0.setI 0xFFE)) ∧
    FaultCause .memoryBoundsError (at_ 0xFF55 (s0.setI 0xFF1)) ∧
    FaultCause .memoryBoundsError (at_ 0xF065 (s0.setI 0x1000)) :=
  ⟨⟨.draw 0 0 1, ⟨0xD001, by decide, by decide⟩, by decide, by decide⟩,
    ⟨.draw 0 0 15, ⟨0xD00F, by decide, by decide⟩, by decide, by decide⟩,
    ⟨.bcd 0, ⟨0xF033, by decide, by decide⟩, by decide, by decide⟩,
    ⟨.storeRegs 15, ⟨0xFF55, by decide, by decide⟩, by decide, by decide⟩,
    ⟨.loadRegs 0, ⟨0xF065, by decide, by decide⟩, by decide, by decide⟩⟩

/-- HaltedStateIsFinal -/
theorem test_witness_halted : sHalted.Halted := rfl

/-- ReturnPopsIntoPc -/
theorem test_witness_return :
    (opField 0x05EE = 0x0 ∧ nnField 0x05EE = 0xEE) ∧ s0.sp.val = 0 ∧
      (s0.setSp 1).sp.val = (0 : Fin 16).val + 1 ∧ (s0.setSp 16).sp.val = (15 : Fin 16).val + 1 := by decide

/-- JumpsSetPc -/
theorem test_witness_jumps :
    opField 0x1FFF = 0x1 ∧ opField 0xBFFF = 0xB ∧ (s0.Running ∧ 0xFFE < (0xFFF : Addr).toNat) ∧
      ((s0.setV 0 0xFF).Running ∧ 0xFFE < (0xF00 : Addr).toNat + ((s0.setV 0 0xFF).getV 0).toNat) :=
  ⟨by decide, by decide, ⟨rfl, by decide⟩, rfl, by decide⟩

/-- CallPushesTheAdvancedPc -/
theorem test_witness_call :
    opField 0x2300 = 0x2 ∧ (s0.setSp 16).sp.val = 16 ∧ s0.sp.val = (0 : Fin 16).val ∧
      (s0.setSp 15).sp.val = (15 : Fin 16).val ∧ (14 : Fin 16) ≠ 15 := by decide

/-- SkipsTestTheirOperands, with each outcome of each test -/
theorem test_witness_skips :
    opField 0x332A = 0x3 ∧ opField 0x4001 = 0x4 ∧ opField 0x5440 = 0x5 ∧ opField 0x9440 = 0x9 ∧
      s0.getV 3 = 0 ∧ s0.getV 3 ≠ 0x2A ∧ s0.getV 4 = s0.getV 5 ∧ (s0.setV 4 1).getV 4 ≠ (s0.setV 4 1).getV 5 := by
  decide

/-- ImmediateMovesWriteOnlyTheirDestination -/
theorem test_witness_immediates :
    opField 0x6FAB = 0x6 ∧ opField 0x7203 = 0x7 ∧ opField 0x8150 = 0x8 ∧ nField 0x8150 = 0x0 := by decide

/-- LogicIsBitwiseAndKeepsVF -/
theorem test_witness_logic :
    opField 0x8011 = 0x8 ∧ nField 0x8011 = 0x1 ∧ nField 0x8012 = 0x2 ∧ nField 0x8013 = 0x3 := by decide

/-- AddRegSetsSumAndCarry: the destination is and is not `VF` -/
theorem test_witness_addReg :
    opField 0x8F14 = 0x8 ∧ nField 0x8F14 = 0x4 ∧ (14 : Reg) ≠ Reg.vf ∧ ¬((15 : Reg) ≠ Reg.vf) := by decide

/-- SubtractionsSetDifferenceAndNoBorrow -/
theorem test_witness_sub :
    opField 0x8015 = 0x8 ∧ nField 0x8015 = 0x5 ∧ nField 0x8017 = 0x7 ∧ (0 : Reg) ≠ Reg.vf := by decide

/-- ShiftsReportTheBitShiftedOut -/
theorem test_witness_shifts :
    opField 0x8126 = 0x8 ∧ nField 0x8126 = 0x6 ∧ nField 0x830E = 0xE ∧ (3 : Reg) ≠ Reg.vf := by decide

/-- RandomAndMasksAnyByte: with a byte supplied and without -/
theorem test_witness_randomAnd :
    opField 0xC10F = 0xC ∧ s0.Running ∧ s0.randIn = none ∧ (supplyRandom 0xB7 s0).randIn = some 0xB7 :=
  ⟨by decide, rfl, rfl, rfl⟩

/-- ClearDisplayTurnsEveryCellOff: the word, and the two corners of the grid -/
theorem test_witness_clearDisplay :
    (opField 0x0FE0 = 0x0 ∧ nnField 0x0FE0 = 0xE0) ∧ OnGrid 0 0 ∧ OnGrid 31 63 := by
  unfold OnGrid
  decide

/-- Glyph 0 at the origin. -/
def sGlyph : State := s0.setI 0x050

theorem glyph_covers_origin (s : State) (hm : s.mem = []) (hi : s.i = 0x050) (h0 : s.getV 0 = 0)
    (h1 : s.getV 1 = 0) : SpriteCovers 0 1 5 s 0 0 :=
  ⟨0, by decide, 0, by decide, by rw [hm, hi]; decide, by rw [h1]; decide, by rw [h0]; decide⟩

theorem glyph_leaves_middle : ¬SpriteCovers 0 1 5 sGlyph 1 1 := by
  unfold SpriteCovers
  decide

/-- DrawTogglesExactlyTheSpriteCells: no rows anywhere, the last address that fits, the first that does not; cells that the sprite
covers and does not; a lit cell under it, and none -/
theorem test_witness_draw :
    (opField 0xD015 = 0xD) ∧
    ((0 : Nat) ≤ 15 ∧ ((0 : Nat) = 0 ∨ (s0.setI 0xFFFF).i.toNat + 0 - 1 ≤ 0xFFF)) ∧
    ((15 : Nat) ≤ 15 ∧ ((15 : Nat) = 0 ∨ (s0.setI 0xFF1).i.toNat + 15 - 1 ≤ 0xFFF)) ∧
    (0 < 15 ∧ 0xFFF < (s0.setI 0xFF2).i.toNat + 15 - 1) ∧
    (OnGrid 0 0 ∧ SpriteCovers 0 1 5 sGlyph 0 0 ∧ OnGrid 1 1 ∧ ¬SpriteCovers 0 1 5 sGlyph 1 1) ∧
    (SpriteCovers 0 1 5 (allOn.setI 0x050) 0 0 ∧ Bitmap.cell (allOn.setI 0x050).disp 0 0 = true) ∧
    ∀ r c, SpriteCovers 0 1 5 sGlyph r c → Bitmap.cell sGlyph.disp r c = false := by
  refine ⟨by decide, by decide, by decide, by decide,
    ⟨by unfold OnGrid; decide, glyph_covers_origin _ rfl rfl rfl rfl, by unfold OnGrid; decide, glyph_leaves_middle⟩,
    ⟨glyph_covers_origin _ rfl rfl rfl rfl, by decide⟩, ?_⟩
  rintro r c ⟨i, hi, j, hj, -, rfl, rfl⟩
  revert i j
  decide

/-- DrawTwiceRestoresTheDisplay: the state after the first draw is the state of the second; and a blank sprite -/
theorem test_witness_drawTwice :
    ∃ t, exec (.draw 0 1 5) sGlyph = .next t ∧ t.i = sGlyph.i ∧ t.getV 0 = sGlyph.getV 0 ∧
      t.getV 1 = sGlyph.getV 1 ∧ (∀ a, Memory.read t.mem a = Memory.read sGlyph.mem a) ∧ t.getV Reg.vf = 0 ∧
      SpriteCovers 0 1 5 sGlyph 0 0 ∧ ∀ r c, ¬SpriteCovers 0 1 0 sGlyph r c :=
  ⟨_, rfl, rfl, rfl, rfl, fun _ => rfl, by decide, glyph_covers_origin _ rfl rfl rfl rfl,
    fun _ _ ⟨_, h, _⟩ => absurd h (Nat.not_lt_zero _)⟩

/-- ClearThenDrawShowsExactlyTheSprite -/
theorem test_witness_clearThenDraw :
    (5 : Nat) ≤ 15 ∧ ((5 : Nat) = 0 ∨ (s0.setI 0xFFB).i.toNat + 5 - 1 ≤ 0xFFF) ∧ OnGrid 31 63 := by
  unfold OnGrid
  decide

/-- ACellToggledTwiceCollides: a display narrower than a sprite row, and one lower than the sprite -/
theorem test_witness_toggledTwice :
    (0 < 1 ∧ 0 < 1 ∧ ¬(spritePixels 1 1 0 0 [0xC0]).Nodup) ∧ ¬(spritePixels 8 2 0 0 [0x80, 0, 0x80]).Nodup := by
  decide

/-- KeySkipsTestTheIndexedKey: the first and the last key, and the first index past it -/
theorem test_witness_keySkips :
    (opField 0xE29E = 0xE ∧ nnField 0xE29E = 0x9E) ∧ (opField 0xE2A1 = 0xE ∧ nnField 0xE2A1 = 0xA1) ∧
      (s0.getV 0).toNat = (0 : Fin 16).val ∧ ((s0.setV 0 15).getV 0).toNat = (15 : Fin 16).val ∧
      0xF < ((s0.setV 0 16).getV 0).toNat := by decide

/-- WaitKeyStoresAPressedKeyOrRewinds -/
theorem test_witness_waitKey :
    (opField 0xF30A = 0xF ∧ nnField 0xF30A = 0x0A) ∧ (∃ k, (withKey s0 15).getKey k = true) ∧
      ∀ k, s0.getKey k = false := by decide

/-- WaitKeyWithoutAKeyRunsForever -/
theorem test_witness_waitKeyForever :
    (at_ 0xF30A s0).Running ∧ (at_ 0xF30A s0).Fetches (.waitKey 3) ∧ (∀ k, (at_ 0xF30A s0).getKey k = false) ∧
      ∀ t ∈ [Transaction.step 0xB7, .tick, .step 0], t.StepOrTick := by
  refine ⟨rfl, ⟨0xF30A, by decide, by decide⟩, by decide, fun t ht => ?_⟩
  simp only [List.mem_cons, List.not_mem_nil, or_false] at ht
  rcases ht with rfl | rfl | rfl <;> trivial

/-- TimerMovesCopyTheByte -/
theorem test_witness_timers :
    opField 0xF507 = 0xF ∧ nnField 0xF507 = 0x07 ∧ nnField 0xF515 = 0x15 ∧ nnField 0xF118 = 0x18 := by decide

/-- TicksCountBothTimersDownToZero -/
theorem test_witness_ticks : (s0.setDt 1).Running ∧ (sHalted.setDt 5).Halted := ⟨rfl, rfl⟩

/-- TicksCommuteWithStepsThatUseNoTimer -/
theorem test_witness_ticksCommute :
    (at_ 0x6FAB s0).Running ∧ (at_ 0x6FAB s0).Fetches (.setImm 15 0xAB) ∧ ¬(Instr.setImm 15 0xAB).UsesTimers ∧
      ∃ t, step (at_ 0x6FAB s0) = .next t ∧ t.Running :=
  ⟨rfl, ⟨0x6FAB, by decide, by decide⟩, fun h => h, _, rfl, rfl⟩

/-- IndexInstructionsSetI -/
theorem test_witness_index :
    opField 0xA250 = 0xA ∧ opField 0xF11E = 0xF ∧ nnField 0xF11E = 0x1E ∧ nnField 0xF429 = 0x29 := by decide

/-- BcdStoresThreeDigits -/
theorem test_witness_bcd :
    (opField 0xF033 = 0xF ∧ nnField 0xF033 = 0x33) ∧ (s0.setI 0xFFD).i.toNat + 2 ≤ 0xFFF ∧
      0xFFF < (s0.setI 0xFFE).i.toNat + 2 := by decide

/-- StoreRegsCopiesRegistersToMemory -/
theorem test_witness_storeRegs :
    (opField 0xFF55 = 0xF ∧ nnField 0xFF55 = 0x55) ∧ (s0.setI 0xFF0).i.toNat + (15 : Reg).val ≤ 0xFFF ∧
      (15 : Reg) ≤ 15 ∧ 0xFFF < (s0.setI 0xFF1).i.toNat + (15 : Reg).val := by decide

/-- LoadRegsCopiesMemoryToRegisters -/
theorem test_witness_loadRegs :
    (opField 0xF065 = 0xF ∧ nnField 0xF065 = 0x65) ∧ (s0.setI 0xFFF).i.toNat + (0 : Reg).val ≤ 0xFFF ∧
      (0 : Reg) ≤ 0 ∧ (0 : Reg) < 15 ∧ 0xFFF < (s0.setI 0x1000).i.toNat + (0 : Reg).val ∧
      (s0.setI 0xFF0).i.toNat + (15 : Reg).val ≤ 0xFFF ∧ (15 : Reg) ≤ 15 ∧
      0xFFF < (s0.setI 0xFF1).i.toNat + (15 : Reg).val := by decide

/-- StoreThenLoadRestoresRegisters: the state after the store, with the registers overwritten (E5) -/
theorem test_witness_roundTrip :
    (s0.setI 0x400).i.toNat + (3 : Reg).val ≤ 0xFFF ∧
    ∃ u, exec (.storeRegs 3) (s0.setI 0x400) = .next u ∧ (u.setV 0 0xFF).i = (s0.setI 0x400).i ∧
      ∀ k : Reg, k ≤ 3 → Memory.read (u.setV 0 0xFF).mem (0x400 + k.val) = Memory.read u.mem (0x400 + k.val) :=
  ⟨by decide, _, rfl, rfl, fun _ _ => rfl⟩

/-- StoredBytesAreFetchedNext: the first pair of registers (P5), and the last -/
theorem test_witness_storedBytes :
    let s := at_ 0xF155 ((s0.setPc 0x206).setI 0x208)
    let u := at_ 0xFF55 ((s0.setPc 0x206).setI 0x1FA)
    (s.Running ∧ s.Fetches (.storeRegs 1) ∧ s.i.toNat + (1 : Reg).val ≤ 0xFFF ∧
      (0 : Reg).val + 1 < 16 ∧ (0 : Reg).val + 1 ≤ (1 : Reg).val ∧ s.pc.toNat + 2 = s.i.toNat + (0 : Reg).val) ∧
    (u.Running ∧ u.Fetches (.storeRegs 15) ∧ u.i.toNat + (15 : Reg).val ≤ 0xFFF ∧
      (14 : Reg).val + 1 < 16 ∧ (14 : Reg).val + 1 ≤ (15 : Reg).val ∧
      u.pc.toNat + 2 = u.i.toNat + (14 : Reg).val) :=
  ⟨⟨rfl, ⟨0xF155, by decide, by decide⟩, by decide, by decide, by decide, by decide⟩,
    rfl, ⟨0xFF55, by decide, by decide⟩, by decide, by decide, by decide, by decide⟩

/-- OnlyTheNamedWritersWrite, with a register the instruction does not write -/
theorem test_witness_writers :
    s0.Running ∧ (∃ t, exec (.addReg 0 1) s0 = .next t ∧ t.Running) ∧ ¬(Instr.addReg 0 1).writesReg 2 ∧
      (∃ t, exec (.waitKey 3) s0 = .next t) ∧ ∀ k, s0.getKey k = false :=
  ⟨rfl, ⟨_, rfl, rfl⟩, by unfold Instr.writesReg; decide, ⟨_, rfl⟩, by decide⟩

theorem reset_pcBounded : State.reset.PcBounded := by
  unfold State.PcBounded
  decide

/-- The state after reset with other components that the invariant does not constrain. -/
theorem reset_inv_with (s : State) (hm : Memory.wf s.mem = true) (hs : s.status = State.reset.status)
    (h1 : s.faultPc = 0) (h2 : s.faultWord = 0) (h3 : s.faultInfo = 0) (hb : s.PcBounded) : s.Inv where
  memory := hm
  status := by rw [hs]; exact ⟨fun _ => rfl, fun _ => rfl⟩
  record := by
    refine ⟨fun _ => ⟨h1, h2, h3⟩, fun f hf => ?_, fun _ => h2⟩
    rw [hs] at hf
    cases hf
  bounded := hb

/-- EveryStepKeepsTheInvariant: a state with a return address at its bound, before a `return` -/
theorem test_witness_stepInv :
    let s := at_ 0x00EE ((s0.setSp 16).setStack 15 0x1000)
    s.Inv ∧ ∃ t, step s = .next t ∧ t.pc = 0x1000 := by
  refine ⟨reset_inv_with _ (by decide) rfl rfl rfl rfl ?_, _, rfl, rfl⟩
  unfold State.PcBounded
  decide

/-- A run with an image of the given length, and every kind of transaction after the load. -/
def runOfLength (n : Nat) : Run where
  memInit := fun _ => 0
  image := List.replicate n 0xAB
  rest := State.reset
  schedule := [.step 0xB7, .tick, .keysIn 1, .step 0]

/-- EveryScheduleKeepsTheInvariant: a state, a run whose load fails, and one whose load does not -/
theorem test_witness_schedule :
    State.reset.Inv ∧ (runOfLength 3585).Admissible ∧ (runOfLength 3584).Admissible :=
  ⟨reset_inv_with _ (by decide) rfl rfl rfl rfl reset_pcBounded, fun _ => ⟨by decide, reset_pcBounded⟩,
    fun _ => ⟨by decide, reset_pcBounded⟩⟩

/-- PcNeverPasses10FE: the bound is reached (T35), and a run from there -/
theorem test_witness_pcBounded :
    (at_ 0xBFFF (s0.setV 0 0xFF)).PcBounded ∧
    (∃ t, step (at_ 0xBFFF (s0.setV 0 0xFF)) = .next t ∧ t.pc = 0x10FE) ∧
    ∃ t, Host.Core.run Sys2Proof.core 2 (at_ 0xBFFF (s0.setV 0 0xFF)) = .next t := by
  refine ⟨?_, ⟨_, rfl, rfl⟩, _, rfl⟩
  unfold State.PcBounded
  decide

/-- StaleStackEntriesAreUnobservable: states that differ in one stale entry -/
theorem test_witness_staleStack :
    OnlyChanges [.stack] (s0.setSp 1) ((s0.setSp 1).setStack 1 0x300) ∧
      (∀ k : Fin 16, k.val < (s0.setSp 1).sp.val →
        ((s0.setSp 1).setStack 1 0x300).getStack k = (s0.setSp 1).getStack k) ∧
      ((s0.setSp 1).setStack 1 0x300).getStack 1 ≠ (s0.setSp 1).getStack 1 := by
  refine ⟨fun c hc => ?_, by decide, by decide⟩
  cases c <;> first | exact absurd (List.mem_singleton.2 rfl) hc | simp [Component.Same]

/-- LoadLeavesTheResetState: the longest image, its last byte, the last byte of the font and a byte of neither (T152) -/
theorem test_witness_load :
    (List.replicate 3584 (0xAB : Byte)).length ≤ 3584 ∧ 3583 < (List.replicate 3584 (0xAB : Byte)).length ∧
      3584 < (List.replicate 3585 (0xAB : Byte)).length ∧ 79 < 80 ∧ (0xA0 < 4096 ∧ ¬(0x50 ≤ 0xA0 ∧ 0xA0 < 0xA0) ∧
        ¬(0x200 ≤ 0xA0 ∧ 0xA0 < 0x200 + (List.replicate 3584 (0xAB : Byte)).length)) ∧ OnGrid 31 63 := by
  rw [List.length_replicate, List.length_replicate]
  unfold OnGrid
  decide

/-- AnOversizedImageIsALoadError (T153) -/
theorem test_witness_oversized :
    (List.replicate 3584 (0xAB : Byte)).length ≤ 3584 ∧ 3585 ≤ (List.replicate 3585 (0xAB : Byte)).length := by
  rw [List.length_replicate, List.length_replicate]
  decide

/-- ExecutionStartsAtTheFirstImageWord -/
theorem test_witness_executionStarts : (List.replicate 3582 (0xAB : Byte)).length ≤ 3582 := by
  rw [List.length_replicate]

/-- KeysInWritesTheWholeVector -/
theorem test_witness_keysIn : s0.Running := rfl

/-- TheSelfLoopEndIsStable -/
theorem test_witness_selfLoop :
    (at_ 0x1200 s0).SelfLoopEnd ∧ ∀ t ∈ [Transaction.step 0xB7, .tick], t.StepOrTick := by
  refine ⟨⟨rfl, 0x1200, 0x200, by decide, by decide, by decide⟩, fun t ht => ?_⟩
  simp only [List.mem_cons, List.not_mem_nil, or_false] at ht
  rcases ht with rfl | rfl <;> trivial

/-- A state halted with each fault. -/
def haltedWith (f : Fault) : State := { s0 with status := { state := .halted, code := some f } }

/-- StatusOutShowsTheCodes: a state for each clause -/
theorem test_witness_statusOut :
    s0.Running ∧ (haltedWith .loadError).Halted ∧ s0.status.code = none ∧
      (haltedWith .loadError).status.code = some .loadError ∧
      (haltedWith .fetchError).status.code = some .fetchError ∧
      (haltedWith .decodeError).status.code = some .decodeError ∧
      (haltedWith .stackOverflow).status.code = some .stackOverflow ∧
      (haltedWith .stackUnderflow).status.code = some .stackUnderflow ∧
      (haltedWith .memoryBoundsError).status.code = some .memoryBoundsError ∧
      (haltedWith .keyIndexError).status.code = some .keyIndexError :=
  ⟨rfl, rfl, rfl, rfl, rfl, rfl, rfl, rfl, rfl, rfl⟩

/-- DispOutIsRowMajor: the two corners of the grid -/
theorem test_witness_dispOut : OnGrid 0 0 ∧ OnGrid 31 63 := by
  unfold OnGrid
  decide

/-- FontTableHoldsTheGlyphs: the longest image that is accepted -/
theorem test_witness_font : (List.replicate 3584 (0xAB : Byte)).length ≤ 3584 := by
  rw [List.length_replicate]

/-- RandomAndSamplesTheByteOfItsStep -/
theorem test_witness_randomStep : (at_ 0xC10F s0).Running ∧ (at_ 0xC10F s0).Fetches (.randomAnd 1 0x0F) :=
  ⟨rfl, 0xC10F, by decide, by decide⟩

/-- OnlyRandomAndReadsTheRandomByte: a state that fetches another instruction, and one that fetches none -/
theorem test_witness_otherStep :
    (∀ x nn, ¬(at_ 0x6FAB s0).Fetches (.randomAnd x nn)) ∧ ∀ x nn, ¬(s0.setPc 0xFFF).Fetches (.randomAnd x nn) := by
  have h : (at_ 0x6FAB s0).Fetches (.setImm 15 0xAB) := ⟨0x6FAB, by decide, by decide⟩
  refine ⟨fun x nn h' => ?_, fun x nn ⟨w, hw, _⟩ => ?_⟩
  · cases h.unique h'
  · rw [(fetch_eq_none_iff (s0.setPc 0xFFF)).2 (by decide)] at hw
    cases hw

/-- ARunStartsAfresh: a run whose image fits, and two states before it, one of them halted -/
theorem test_witness_run : (runOfLength 3584).image.length ≤ 3584 ∧ sHalted.freeDraws = s0.freeDraws := by
  refine ⟨?_, rfl⟩
  unfold runOfLength
  rw [List.length_replicate]

end Sys2Proof.Tests
end

/-! SUPPORT. Proofs of the statements of 10_state.md: what an instruction and a step can do, said once
(`exec_cases`, `step_outcome`), the invariants that follow, and the noninterference of two steps (`Hidden.Stable`). -/

namespace Sys2Proof.Machine

/-! ## What the execute phase of one instruction can do -/

theorem State.setI_onlyChanges (s : State) (a : Word) : OnlyChanges [.i] s (s.setI a) := by
  intro c hc
  cases c <;> simp_all [Component.Same]

theorem State.setDt_onlyChanges (s : State) (b : Byte) : OnlyChanges [.dt] s (s.setDt b) := by
  intro c hc
  cases c <;> simp_all [Component.Same]

theorem State.setSt_onlyChanges (s : State) (b : Byte) : OnlyChanges [.st] s (s.setSt b) := by
  intro c hc
  cases c <;> simp_all [Component.Same]

theorem State.setSp_onlyChanges (s : State) (n : Fin 17) : OnlyChanges [.sp] s (s.setSp n) := by
  intro c hc
  cases c <;> simp_all [Component.Same]

theorem State.setStack_onlyChanges (s : State) (k : Fin 16) (a : Word) :
    OnlyChanges [.stack] s (s.setStack k a) := by
  intro c hc
  cases c <;> simp_all [Component.Same]

theorem State.countDraw_onlyChanges (s : State) : OnlyChanges [.freeDraws] s s.countDraw := by
  intro c hc
  cases c <;> simp_all [Component.Same]

/-- Two changes after each other change what one of them may change. -/
theorem OnlyChanges.append {cs ds : List Component} {s t u : State} (h : OnlyChanges cs s t)
    (h' : OnlyChanges ds t u) : OnlyChanges (cs ++ ds) s u :=
  (h.mono (List.subset_append_left cs ds)).trans (h'.mono (List.subset_append_right cs ds))

/-- `t` differs from `s` only where the writer table of R23 lets `i` write, and memory keeps its canonical form. -/
structure WritesOnly (i : Instr) (s t : State) : Prop where
  components : OnlyChanges i.writes s t
  registers : ∀ r, ¬i.writesReg r → t.getV r = s.getV r
  bytes : KeepsMemoryOutside s.i.toNat i.dataBytes s t
  canonical : Memory.wf s.mem = true → Memory.wf t.mem = true

/-- Where the memory is the same list, the table's components and registers are all there is to show. -/
theorem WritesOnly.of_mem_eq {i : Instr} {s t : State} (hc : OnlyChanges i.writes s t)
    (hr : ∀ r, ¬i.writesReg r → t.getV r = s.getV r) (hm : t.mem = s.mem) : WritesOnly i s t where
  components := hc
  registers := hr
  bytes := fun a _ => by rw [hm]
  canonical := fun h => by rwa [hm]

/-- Where the registers and memory are the same, the table's components are all there is to show. -/
theorem WritesOnly.of_v_eq {i : Instr} {s t : State} (hc : OnlyChanges i.writes s t)
    (hv : t.v = s.v) (hm : t.mem = s.mem) : WritesOnly i s t :=
  .of_mem_eq hc (fun _ _ => by rw [State.getV, State.getV, hv]) hm

/-- One register written last, after changes to neither registers nor memory. -/
theorem WritesOnly.setV {i : Instr} {s t : State} {x : Reg} {b : Byte}
    (hc : OnlyChanges i.writes s (t.setV x b)) (hr : i.writesReg x)
    (hv : t.v = s.v) (hm : t.mem = s.mem) : WritesOnly i s (t.setV x b) := by
  refine .of_mem_eq hc (fun r h => ?_) hm
  have hne : r ≠ x := fun e => h (e ▸ hr)
  rw [t.setV_getV_ne b hne, State.getV, State.getV, hv]

theorem WritesOnly.setResultAndFlag {i : Instr} {s : State} {x : Reg} {b f : Byte}
    (hw : i.writes = [.v]) (hx : i.writesReg x) (hf : i.writesReg Reg.vf) :
    WritesOnly i s (s.setResultAndFlag x b f) := by
  refine .of_mem_eq (hw ▸ s.setResultAndFlag_onlyChanges x b f) (fun r h => ?_) rfl
  have hnx : r ≠ x := fun e => h (e ▸ hx)
  have hnf : r ≠ Reg.vf := fun e => h (e ▸ hf)
  rw [s.setResultAndFlag_getV, if_neg hnf, if_neg hnx]

/-- A block of bytes written from `I` on, inside memory. -/
theorem WritesOnly.writeBytes {i : Instr} {s : State} {bs : List Byte} (hw : i.writes = [.mem])
    (hlen : bs.length = i.dataBytes) (hr : inRange s.base bs.length = true) :
    WritesOnly i s (s.setMem (Memory.writeBytes s.mem s.base bs)) where
  components := hw ▸ s.setMem_onlyChanges _
  registers := fun _ _ => rfl
  bytes := fun _ ha => Memory.read_writeBytes_outside _ _ (hlen ▸ ha)
  canonical := fun h => by
    rcases (inRange_iff _ _).1 hr with h0 | hle
    · rw [List.eq_nil_of_length_eq_zero h0]
      exact h
    · exact Memory.writeBytes_wf h (by unfold Config.memSize; omega)

/-- `wait-key` waits at the same address, or stores one key; the open choice among several counts a draw (R163). -/
theorem exec_waitKey_cases (x : Reg) (s : State) :
    (s.pressedKeys = [] ∧ exec (.waitKey x) s = .next (s.setPc (s.pc - 2))) ∨
      (∃ b, exec (.waitKey x) s = .next (s.setV x b)) ∨
      ∃ b, exec (.waitKey x) s = .next (s.countDraw.setV x b) := by
  rw [exec, execWaitKey]
  split
  · next h => exact .inl ⟨h, rfl⟩
  · exact .inr (.inl ⟨_, rfl⟩)
  · exact .inr (.inr ⟨_, rfl⟩)

/-- A key index that is no key is a fault; any other decides a skip (R160 to R162). -/
theorem exec_skipKey_cases {i : Instr} {x : Reg} (hi : i = .skipKeyPressed x ∨ i = .skipKeyNotPressed x)
    (s : State) :
    (∃ info, exec i s = raiseFault .keyIndexError info s) ∨ ∃ c, exec i s = .next (s.skipIf c) := by
  rcases hi with rfl | rfl
  · rw [exec, execSkipKeyPressed]
    split
    · exact .inr ⟨_, rfl⟩
    · exact .inl ⟨_, rfl⟩
  · rw [exec, execSkipKeyNotPressed]
    split
    · exact .inr ⟨_, rfl⟩
    · exact .inl ⟨_, rfl⟩

/-- A random byte is drawn without a change to any component but the two of the draw. -/
theorem State.randomByte_cases (s : State) :
    s.randomByte.2 = s.useRandIn ∨ s.randomByte.2 = s.countDraw := by
  cases h : s.randIn with
  | some b => exact .inl (by rw [State.randomByte_of_some h])
  | none => exact .inr (by rw [State.randomByte_of_none h])

/-- `load-regs` writes the registers up to `x` alone (R185). -/
theorem State.setRegs_writeRegs_getV (s : State) {x r : Reg} (bs : List Byte) (hlen : bs.length = x.val + 1)
    (hr : ¬r ≤ x) : (s.setRegs (writeRegs s.v 0 bs)).getV r = s.getV r := by
  have hlt : ¬(0 ≤ r.val ∧ r.val < 0 + bs.length) := by
    have : x.val < r.val := Nat.lt_of_not_le hr
    omega
  exact (getElem_writeRegs s.v 0 bs r.val r.isLt).trans (if_neg hlt)

/-- An instruction raises a fault, or makes the writes of its row of R23. Every other statement about what an
instruction leaves alone comes from here. -/
theorem exec_cases (i : Instr) (s : State) :
    (∃ f info, f ≠ .loadError ∧ exec i s = raiseFault f info s) ∨
      ∃ t, exec i s = .next t ∧ WritesOnly i s t := by
  have hkey := fun x => exec_skipKey_cases (i := i) (x := x) (s := s)
  cases i with
  | clearDisplay => exact .inr ⟨_, rfl, .of_v_eq (s.setDisp_onlyChanges _) rfl rfl⟩
  | ret =>
    rw [exec, execReturn]
    split
    · exact .inl ⟨_, _, by decide, rfl⟩
    · exact .inr ⟨_, rfl, .of_v_eq
        (((s.setSp_onlyChanges _).append (State.setPc_onlyChanges _ _)).mono (by simp [Instr.writes])) rfl rfl⟩
  | call nnn =>
    rw [exec, execCall]
    split
    · exact .inr ⟨_, rfl, .of_v_eq
        ((((s.setStack_onlyChanges _ _).append (State.setSp_onlyChanges _ _)).append
          (State.setPc_onlyChanges _ _)).mono (by simp [Instr.writes])) rfl rfl⟩
    · exact .inl ⟨_, _, by decide, rfl⟩
  | jump | jumpOffset => exact .inr ⟨_, rfl, .of_v_eq (s.setPc_onlyChanges _) rfl rfl⟩
  | skipEqImm | skipNeImm | skipEqReg | skipNeReg =>
    exact .inr ⟨_, rfl, .of_v_eq (s.skipIf_onlyChanges _) (s.skipIf_v _) (s.skipIf_mem _)⟩
  | skipKeyPressed x | skipKeyNotPressed x =>
    rcases hkey x (by simp) with ⟨info, h⟩ | ⟨c, h⟩
    · exact .inl ⟨_, info, by decide, h⟩
    · exact .inr ⟨_, h, .of_v_eq (s.skipIf_onlyChanges _) (s.skipIf_v _) (s.skipIf_mem _)⟩
  | setImm | addImm | setReg | orReg | andReg | xorReg | getDelay =>
    exact .inr ⟨_, rfl, .setV (s.setV_onlyChanges _ _) rfl rfl rfl⟩
  | addReg | sub | shiftRight | subReverse | shiftLeft =>
    exact .inr ⟨_, rfl, .setResultAndFlag rfl (.inl rfl) (.inr rfl)⟩
  | randomAnd x nn =>
    refine .inr ⟨_, rfl, ?_⟩
    have hc := (s.randomByte_spec.1.append (State.setV_onlyChanges _ x (s.randomByte.1 &&& nn))).mono
      (ds := [.v, .randIn, .freeDraws]) (by decide)
    rcases s.randomByte_cases with h | h <;> rw [h] at hc ⊢ <;> exact .setV hc rfl rfl rfl
  | waitKey x =>
    right
    rcases exec_waitKey_cases x s with ⟨-, h⟩ | ⟨b, h⟩ | ⟨b, h⟩
    · exact ⟨_, h, .of_v_eq ((s.setPc_onlyChanges _).mono (by simp [Instr.writes])) rfl rfl⟩
    · exact ⟨_, h, .setV ((s.setV_onlyChanges x b).mono (by simp [Instr.writes])) rfl rfl rfl⟩
    · exact ⟨_, h, .setV
        ((s.countDraw_onlyChanges.append (State.setV_onlyChanges _ x b)).mono (by simp [Instr.writes])) rfl rfl rfl⟩
  | setIndex | fontChar => exact .inr ⟨_, rfl, .of_v_eq (s.setI_onlyChanges _) rfl rfl⟩
  | addIndex x =>
    exact .inr ⟨_, rfl, .setV ((s.setI_onlyChanges _).append (State.setV_onlyChanges _ _ _)) rfl rfl rfl⟩
  | draw x y n =>
    rw [exec, execDraw]
    split
    · exact .inr ⟨_, rfl, .setV
        ((s.setDisp_onlyChanges _).append (State.setV_onlyChanges _ _ _)) rfl rfl rfl⟩
    · exact .inl ⟨_, _, by decide, rfl⟩
  | setDelay => exact .inr ⟨_, rfl, .of_v_eq (s.setDt_onlyChanges _) rfl rfl⟩
  | setSound => exact .inr ⟨_, rfl, .of_v_eq (s.setSt_onlyChanges _) rfl rfl⟩
  | bcd x =>
    rw [exec, execBcd]
    split
    · next h => exact .inr ⟨_, rfl, .writeBytes rfl rfl h⟩
    · exact .inl ⟨_, _, by decide, rfl⟩
  | storeRegs x =>
    rw [exec, execStoreRegs]
    split
    · next h =>
      have hlen := s.regsUpTo_length x
      exact .inr ⟨_, rfl, .writeBytes rfl hlen (hlen ▸ h)⟩
    · exact .inl ⟨_, _, by decide, rfl⟩
  | loadRegs x =>
    rw [exec, execLoadRegs]
    split
    · exact .inr ⟨_, rfl, .of_mem_eq (s.setRegs_onlyChanges _)
        (fun _ hr => s.setRegs_writeRegs_getV _ (Memory.readBytes_length _ _ _) hr) rfl⟩
    · exact .inl ⟨_, _, by decide, rfl⟩

/-- The writer table of R23 gives no instruction `STATUS` or the fault record. -/
theorem WritesOnly.keeps_status {i : Instr} {s t : State} (h : WritesOnly i s t) :
    t.status = s.status ∧ t.faultPc = s.faultPc ∧ t.faultWord = s.faultWord ∧ t.faultInfo = s.faultInfo := by
  have hs : Component.status ∉ i.writes := by cases i <;> simp [Instr.writes]
  have hf : Component.faultRecord ∉ i.writes := by cases i <;> simp [Instr.writes]
  exact ⟨h.components _ hs, h.components _ hf⟩

/-- What a step can do (R72, R201, R205): nothing, a fault taken at the instruction, or the writes of one
instruction. -/
theorem step_outcome (s : State) :
    (s.Halted ∧ step s = .next s) ∨
      (s.Running ∧ ∃ f w info, f ≠ .loadError ∧ step s = .next (takeFault f s.pc w info s)) ∨
      (s.Running ∧ ∃ i t, s.Fetches i ∧ step s = .next t ∧ WritesOnly i s.advancePc t) := by
  rcases step_cases s with hh | ⟨hr, hf⟩ | ⟨hr, w, e, hf, hd⟩ | ⟨hr, i, hi⟩
  · exact .inl ⟨hh, step_of_halted hh⟩
  · exact .inr (.inl ⟨hr, _, _, _, by decide, step_of_fetch_none hr hf⟩)
  · exact .inr (.inl ⟨hr, _, _, _, by decide, step_of_decode_error hr hf hd⟩)
  · rw [step_of_fetches hr hi]
    rcases exec_cases i s.advancePc with ⟨f, info, hne, he⟩ | ⟨t, he, hw⟩
    · exact .inr (.inl ⟨hr, f, _, info, hne, he.trans (raiseFault_advancePc f info s)⟩)
    · exact .inr (.inr ⟨hr, i, t, hi, he, hw⟩)

/-- Every step answers a next state. -/
theorem step_eq_next (s : State) : ∃ t, step s = .next t := by
  rcases step_outcome s with ⟨-, he⟩ | ⟨-, f, w, info, -, he⟩ | ⟨-, i, t, -, he, -⟩
  · exact ⟨_, he⟩
  · exact ⟨_, he⟩
  · exact ⟨t, he⟩

/-! ## Bounds of `pc` and of the return addresses (R26) -/

/-- A word that names an address is below 0x1000. -/
theorem zextAddr_toNat_lt (nnn : Addr) : (zextAddr nnn).toNat < 0x1000 := by
  unfold zextAddr
  bv_omega

theorem zextByte_toNat_lt (b : Byte) : (zextByte b).toNat < 0x100 := by
  unfold zextByte
  bv_omega

/-- A new `pc` inside the bound, with the stack as it was. -/
theorem State.PcBounded.of_getStack_eq {s t : State} (hs : ∀ k, (s.getStack k).toNat ≤ 0x1000)
    (hk : ∀ k, t.getStack k = s.getStack k) (hp : t.pc.toNat ≤ 0x10FE) : t.PcBounded :=
  ⟨hp, fun k => hk k ▸ hs k⟩

/-- The state an instruction starts its execute phase in, after a fetch from a bounded state (R26, R73, R74). -/
structure State.ExecBounded (s : State) : Prop where
  pc_ge : 2 ≤ s.pc.toNat
  pc_le : s.pc.toNat ≤ 0x1000
  stack_le : ∀ k, (s.getStack k).toNat ≤ 0x1000

theorem State.Fetches.execBounded {s : State} {i : Instr} (hi : s.Fetches i) (hs : s.PcBounded) :
    s.advancePc.ExecBounded := by
  obtain ⟨w, hw, -⟩ := hi
  have hpc : s.pc.toNat + 1 ≤ 0xFFF := ((fetch_eq_some_iff s w).1 hw).1
  have hadv : s.advancePc.pc.toNat = s.pc.toNat + 2 := by
    rw [State.advancePc_pc]
    bv_omega
  exact ⟨by omega, by omega, hs.2⟩

namespace State.ExecBounded

variable {s t : State}

theorem pc_sub_two (hs : s.ExecBounded) : (s.pc - 2).toNat ≤ 0x10FE := by
  obtain ⟨hge, hle, -⟩ := hs
  bv_omega

theorem setPc (hs : s.ExecBounded) {p : Word} (hp : p.toNat ≤ 0x10FE) : (s.setPc p).PcBounded :=
  .of_getStack_eq hs.stack_le (fun _ => rfl) hp

theorem skipIf (hs : s.ExecBounded) (c : Bool) : (s.skipIf c).PcBounded := by
  refine .of_getStack_eq hs.stack_le (s.skipIf_getStack c) ?_
  obtain ⟨-, hle, -⟩ := hs
  rw [State.skipIf_pc]
  split <;> bv_omega

theorem raiseFault (hs : s.ExecBounded) {f : Fault} {info : Word} (h : raiseFault f info s = .next t) :
    t.PcBounded := by
  cases h
  exact hs.setPc hs.pc_sub_two

/-- An instruction with neither `pc` nor the stack in its row of R23. -/
theorem of_not_writes (hs : s.ExecBounded) {i : Instr} (hp : Component.pc ∉ i.writes)
    (hk : Component.stack ∉ i.writes) (h : exec i s = .next t) : t.PcBounded := by
  rcases exec_cases i s with ⟨f, info, -, he⟩ | ⟨u, he, hw⟩
  · exact hs.raiseFault (he ▸ h)
  · cases he ▸ h
    have hpc : t.pc = s.pc := hw.components _ hp
    exact .of_getStack_eq hs.stack_le (hw.components _ hk) (by have := hs.pc_le; rw [hpc]; omega)

end State.ExecBounded

/-- No instruction takes `pc` above 0x10FE or puts an entry above 0x1000 on the stack: the highest target is that of
`jump-offset`, 0xFFF + 0xFF (R26, R108). -/
theorem exec_pcBounded {i : Instr} {s t : State} (hs : s.ExecBounded) (h : exec i s = .next t) : t.PcBounded := by
  have hkey := fun x => exec_skipKey_cases (i := i) (x := x) (s := s)
  cases i with
  | ret =>
    rw [exec, execReturn] at h
    split at h
    · exact hs.raiseFault h
    · cases h
      exact hs.setPc ((hs.stack_le _).trans (by decide))
  | call nnn =>
    rw [exec, execCall] at h
    split at h
    · next hsp =>
      cases h
      refine ⟨(zextAddr_toNat_lt nnn).le.trans (by decide), fun k => ?_⟩
      by_cases hk : k = ⟨s.sp.val, hsp⟩
      · subst hk
        exact (congrArg BitVec.toNat (s.setStack_getStack_same _ _)).trans_le hs.pc_le
      · exact (congrArg BitVec.toNat (s.setStack_getStack_ne _ hk)).trans_le (hs.stack_le k)
    · exact hs.raiseFault h
  | jump nnn =>
    cases h
    exact hs.setPc ((zextAddr_toNat_lt nnn).le.trans (by decide))
  | jumpOffset nnn =>
    cases h
    have ha := zextAddr_toNat_lt nnn
    have hb := zextByte_toNat_lt (s.getV Reg.v0)
    refine hs.setPc ?_
    rw [BitVec.toNat_add]
    omega
  | skipEqImm | skipNeImm | skipEqReg | skipNeReg =>
    cases h
    exact hs.skipIf _
  | skipKeyPressed x | skipKeyNotPressed x =>
    rcases hkey x (by simp) with ⟨info, he⟩ | ⟨c, he⟩
    · exact hs.raiseFault (he ▸ h)
    · cases he ▸ h
      exact hs.skipIf c
  | waitKey x =>
    have hpc : s.pc.toNat ≤ 0x10FE := hs.pc_le.trans (by decide)
    rcases exec_waitKey_cases x s with ⟨-, he⟩ | ⟨b, he⟩ | ⟨b, he⟩ <;> cases he ▸ h
    · exact hs.setPc hs.pc_sub_two
    · exact .of_getStack_eq hs.stack_le (fun _ => rfl) hpc
    · exact .of_getStack_eq hs.stack_le (fun _ => rfl) hpc
  | _ => exact hs.of_not_writes (by simp [Instr.writes]) (by simp [Instr.writes]) h

theorem step_pcBounded {s t : State} (hs : s.PcBounded) (h : step s = .next t) : t.PcBounded := by
  rcases step_outcome s with ⟨-, he⟩ | ⟨-, f, w, info, -, he⟩ | ⟨hr, i, u, hi, -, -⟩
  · cases he ▸ h
    exact hs
  · cases he ▸ h
    exact hs
  · exact exec_pcBounded (hi.execBounded hs) (step_of_fetches hr hi ▸ h)

/-- The machine's run takes the model's step. -/
theorem run_succ_of_step {s u : State} (h : step s = .next u) (n : Nat) :
    Host.Core.run Sys2Proof.core (n + 1) s = Host.Core.run Sys2Proof.core n u := by
  have h' : Sys2Proof.core.step s = .next u := h
  simp only [Host.Core.run, h']

/-- What every step keeps, every run of steps keeps. -/
theorem run_keeps {P : State → Prop} (hP : ∀ s t, P s → step s = .next t → P t) (n : Nat) (s t : State)
    (hs : P s) (h : Host.Core.run Sys2Proof.core n s = .next t) : P t := by
  induction n generalizing s with
  | zero =>
    cases h
    exact hs
  | succ n ih =>
    obtain ⟨u, hu⟩ := step_eq_next s
    rw [run_succ_of_step hu] at h
    exact ih u (hP s u hs hu) h

/-- Settles O45: a step's `pc` is bounded instruction by instruction, and a run's by induction. -/
theorem pcNeverPasses10FE : Obligations.PcNeverPasses10FE :=
  ⟨⟨by decide, by decide⟩, fun _ _ => step_pcBounded, run_keeps fun _ _ => step_pcBounded⟩

/-! ## The invariant (R26, R33 to R35, R201) -/

/-- Fault entry from a running block keeps the invariant. -/
theorem State.Inv.takeFault {s : State} (hs : s.Inv) {f : Fault} (hf : f ≠ .loadError) (w info : Word) :
    (takeFault f s.pc w info s).Inv where
  memory := hs.memory
  status := by simp [Status.Legal]
  record := by
    refine ⟨by simp, fun _ _ _ => rfl, fun hc => ?_⟩
    simp_all
  bounded := hs.bounded

/-- The record of a running block is legal wherever `pc` stands. -/
theorem State.RecordLegal.of_running {s t : State} (hs : s.RecordLegal) (hr : s.Running)
    (hl : Status.Legal s.status) (hst : t.status = s.status) (hpc : t.faultPc = s.faultPc)
    (hw : t.faultWord = s.faultWord) (hi : t.faultInfo = s.faultInfo) : t.RecordLegal := by
  have hcode : t.status.code = none := hst ▸ hl.1 hr
  refine ⟨fun _ => ?_, ?_, ?_⟩
  · rw [hpc, hw, hi]
    exact hs.1 hr
  · simp [hcode]
  · simp [hcode]

/-- The invariant by the three outcomes of a step. -/
theorem State.Inv.step {s t : State} (hs : s.Inv) (h : step s = .next t) : t.Inv := by
  rcases step_outcome s with ⟨-, he⟩ | ⟨-, f, w, info, hf, he⟩ | ⟨hr, i, u, -, he, hw⟩ <;> cases he ▸ h
  · exact hs
  · exact hs.takeFault hf w info
  · obtain ⟨hst, hfp, hfw, hfi⟩ := hw.keeps_status
    exact {
      memory := hw.canonical hs.memory
      status := hst ▸ hs.status
      record := hs.record.of_running hr hs.status hst hfp hfw hfi
      bounded := step_pcBounded hs.bounded h }

/-- Settles O42: a fault writes a legal `STATUS` and record, and no other outcome writes either. -/
theorem everyStepKeepsTheInvariant : Obligations.EveryStepKeepsTheInvariant :=
  fun _ _ hs h => hs.step h

/-! ## Two runs of one instruction (R28, R30, R37) -/

/-- The components that the statements on R28, R30 and R37 let differ between two states, with memory, which they compare byte by byte,
and `SP`, which says which entries are in use. -/
structure Hidden where
  mem : Memory
  stack : Vector Word 16
  sp : Fin 17
  st : Byte
  randIn : Option Byte

def State.hidden (s : State) : Hidden := ⟨s.mem, s.stack, s.sp, s.st, s.randIn⟩

/-- `s` with other hidden components. -/
def State.withHidden (s : State) (g : Hidden) : State :=
  { s with mem := g.mem, stack := g.stack, sp := g.sp, st := g.st, randIn := g.randIn }

@[simp] theorem State.withHidden_getV (s : State) (g : Hidden) (x : Reg) : (s.withHidden g).getV x = s.getV x := rfl
@[simp] theorem State.withHidden_base (s : State) (g : Hidden) : (s.withHidden g).base = s.base := rfl
@[simp] theorem State.withHidden_instrAddr (s : State) (g : Hidden) : (s.withHidden g).instrAddr = s.instrAddr := rfl
@[simp] theorem State.withHidden_pressedKeys (s : State) (g : Hidden) :
    (s.withHidden g).pressedKeys = s.pressedKeys := rfl

/-- A relation of hidden components in which an instruction other than `random-and` reads the same on both sides, and which its
writes to both sides keep. -/
structure Hidden.Stable (Q : Hidden → Hidden → Prop) : Prop where
  read : ∀ {a b}, Q a b → ∀ n, Memory.read b.mem n = Memory.read a.mem n
  sp : ∀ {a b}, Q a b → b.sp = a.sp
  entry : ∀ {a b}, Q a b → ∀ k : Fin 16, k.val < a.sp.val → b.stack[k] = a.stack[k]
  writeBytes : ∀ {a b}, Q a b → ∀ n bs,
    Q { a with mem := Memory.writeBytes a.mem n bs } { b with mem := Memory.writeBytes b.mem n bs }
  setSt : ∀ {a b}, Q a b → ∀ x, Q { a with st := x } { b with st := x }
  push : ∀ {a b}, Q a b → ∀ (k : Fin 16) (p : Word), k.val = a.sp.val →
    Q { a with stack := a.stack.set k p, sp := k.succ } { b with stack := b.stack.set k p, sp := k.succ }
  pop : ∀ {a b}, Q a b → ∀ k : Fin 16, k.val < a.sp.val →
    Q { a with sp := k.castSucc } { b with sp := k.castSucc }

/-- Both answers are next states, which differ in hidden components alone, and the relation holds of these. -/
def Alike (Q : Hidden → Hidden → Prop) (o o' : Result) : Prop :=
  ∃ t g, o = .next t ∧ o' = .next (t.withHidden g) ∧ Q t.hidden g

theorem Alike.skipIf {Q : Hidden → Hidden → Prop} {s : State} {g : Hidden} (h : Q s.hidden g) (c : Bool) :
    Alike Q (.next (s.skipIf c)) (.next ((s.withHidden g).skipIf c)) := by
  cases c <;> exact ⟨_, g, rfl, rfl, h⟩

namespace Hidden.Stable

variable {Q : Hidden → Hidden → Prop} (hQ : Stable Q) {s : State} {g : Hidden} (h : Q s.hidden g)

include hQ h

theorem wordAt (p : Nat) : wordAt (s.withHidden g).mem p = wordAt s.mem p :=
  congrArg₂ wordOfBytes (hQ.read h p) (hQ.read h (p + 1))

theorem fetch : fetch (s.withHidden g) = fetch s :=
  congrArg (fun w => if s.pc.toNat + 1 < Config.memSize then some w else none) (hQ.wordAt h s.pc.toNat)

theorem readBytes (n k : Nat) : Memory.readBytes (s.withHidden g).mem n k = Memory.readBytes s.mem n k :=
  List.map_congr_left fun j _ => hQ.read h (n + j)

theorem raiseFault (f : Fault) (info : Word) :
    Alike Q (raiseFault f info s) (raiseFault f info (s.withHidden g)) := by
  refine ⟨_, g, rfl, ?_, h⟩
  rw [Machine.raiseFault, State.withHidden_instrAddr, hQ.wordAt h]
  rfl

/-- The entry that `return` reads is one in use. -/
theorem execReturn : Alike Q (execReturn s) (execReturn (s.withHidden g)) := by
  obtain ⟨m, k, n, x, o⟩ := g
  obtain rfl : n = s.sp := hQ.sp h
  by_cases h0 : s.sp.val = 0
  · rw [Machine.execReturn, Machine.execReturn, dif_pos h0, dif_pos (by exact h0)]
    exact hQ.raiseFault h _ _
  · rw [Machine.execReturn, Machine.execReturn, dif_neg h0, dif_neg (by exact h0)]
    have hlt : s.sp.val - 1 < s.sp.val := by omega
    have htop := hQ.entry h ⟨s.sp.val - 1, by omega⟩ hlt
    refine ⟨_, _, rfl, ?_, hQ.pop h ⟨s.sp.val - 1, by omega⟩ hlt⟩
    exact congrArg (fun p => Host.Outcome.next ((State.setSp _ _).setPc p)) htop

theorem execCall (nnn : Addr) : Alike Q (execCall nnn s) (execCall nnn (s.withHidden g)) := by
  obtain ⟨m, k, n, x, o⟩ := g
  obtain rfl : n = s.sp := hQ.sp h
  by_cases h16 : s.sp.val < 16
  · rw [Machine.execCall, Machine.execCall, dif_pos h16, dif_pos (by exact h16)]
    exact ⟨_, _, rfl, rfl, hQ.push h ⟨s.sp.val, h16⟩ s.pc rfl⟩
  · rw [Machine.execCall, Machine.execCall, dif_neg h16, dif_neg (by exact h16)]
    exact hQ.raiseFault h _ _

/-- Two executions of an instruction stay alike, if `random-and` finds the same byte in both. -/
theorem exec (i : Instr)
    (hrand : ∀ x nn, i = .randomAnd x nn → Alike Q (execRandomAnd x nn s) (execRandomAnd x nn (s.withHidden g))) :
    Alike Q (exec i s) (exec i (s.withHidden g)) := by
  cases i with
  | ret => exact hQ.execReturn h
  | call nnn => exact hQ.execCall h nnn
  | randomAnd x nn => exact hrand x nn rfl
  | skipEqImm | skipNeImm | skipEqReg | skipNeReg => exact .skipIf h _
  | skipKeyPressed x =>
    rw [Machine.exec, Machine.exec, execSkipKeyPressed, execSkipKeyPressed, State.withHidden_getV]
    split
    · exact .skipIf h _
    · exact hQ.raiseFault h _ _
  | skipKeyNotPressed x =>
    rw [Machine.exec, Machine.exec, execSkipKeyNotPressed, execSkipKeyNotPressed, State.withHidden_getV]
    split
    · exact .skipIf h _
    · exact hQ.raiseFault h _ _
  | waitKey x =>
    rw [Machine.exec, Machine.exec, execWaitKey, execWaitKey, State.withHidden_pressedKeys]
    split <;> exact ⟨_, g, rfl, rfl, h⟩
  | draw x y n =>
    rw [Machine.exec, Machine.exec, execDraw, execDraw, State.withHidden_base,
      hQ.readBytes h]
    split
    · exact ⟨_, g, rfl, rfl, h⟩
    · exact hQ.raiseFault h _ _
  | bcd x =>
    rw [Machine.exec, Machine.exec, execBcd, execBcd, State.withHidden_base]
    split
    · exact ⟨_, _, rfl, rfl, hQ.writeBytes h _ _⟩
    · exact hQ.raiseFault h _ _
  | storeRegs x =>
    rw [Machine.exec, Machine.exec, execStoreRegs, execStoreRegs, State.withHidden_base]
    split
    · exact ⟨_, _, rfl, rfl, hQ.writeBytes h _ _⟩
    · exact hQ.raiseFault h _ _
  | loadRegs x =>
    rw [Machine.exec, Machine.exec, execLoadRegs, execLoadRegs, State.withHidden_base,
      hQ.readBytes h]
    split
    · exact ⟨_, g, rfl, rfl, h⟩
    · exact hQ.raiseFault h _ _
  | setSound x => exact ⟨_, _, rfl, rfl, hQ.setSt h _⟩
  | _ => exact ⟨_, g, rfl, rfl, h⟩

/-- Two steps from states alike stay alike, if an execution of `random-and` does. -/
theorem step
    (hrand : ∀ x nn, s.Fetches (.randomAnd x nn) →
      Alike Q (execRandomAnd x nn s.advancePc) (execRandomAnd x nn (s.advancePc.withHidden g))) :
    Alike Q (step s) (step (s.withHidden g)) := by
  have hf' : Machine.fetch (s.withHidden g) = Machine.fetch s := hQ.fetch h
  rcases step_cases s with hh | ⟨hr, hf⟩ | ⟨hr, w, e, hf, hd⟩ | ⟨hr, i, hi⟩
  · rw [step_of_halted hh, step_of_halted (s := s.withHidden g) hh]
    exact ⟨s, g, rfl, rfl, h⟩
  · rw [step_of_fetch_none hr hf, step_of_fetch_none (s := s.withHidden g) hr (hf'.trans hf)]
    exact ⟨_, g, rfl, rfl, h⟩
  · rw [step_of_decode_error hr hf hd, step_of_decode_error (s := s.withHidden g) hr (hf'.trans hf) hd]
    exact ⟨_, g, rfl, rfl, h⟩
  · have hi' : (s.withHidden g).Fetches i := hi.imp fun w ⟨hw, hd⟩ => ⟨hf'.trans hw, hd⟩
    rw [step_of_fetches hr hi, step_of_fetches (s := s.withHidden g) hr hi']
    exact hQ.exec (s := s.advancePc) h i fun x nn e => hrand x nn (e ▸ hi)

end Hidden.Stable

/-- `random-and` finds the same byte on both sides, and the relation is kept when it is used up. -/
theorem execRandomAnd_alike {Q : Hidden → Hidden → Prop} {s : State} {g : Hidden} (x : Reg) (nn : Byte)
    (hr : g.randIn = s.randIn) (h : Q s.hidden g)
    (huse : Q { s.hidden with randIn := none } { g with randIn := none }) :
    Alike Q (execRandomAnd x nn s) (execRandomAnd x nn (s.withHidden g)) := by
  rw [execRandomAnd, execRandomAnd]
  cases hs : s.randIn with
  | some b =>
    rw [State.randomByte_of_some hs, State.randomByte_of_some (s := s.withHidden g) (hr.trans hs)]
    exact ⟨_, _, rfl, rfl, huse⟩
  | none =>
    rw [State.randomByte_of_none hs, State.randomByte_of_none (s := s.withHidden g) (hr.trans hs)]
    exact ⟨_, g, rfl, rfl, h⟩

/-! ### Stale stack entries (R28) -/

/-- The same bytes, `SP`, sound timer and `rand_in`, and the same entries in use. -/
structure SameInUse (a b : Hidden) : Prop where
  read : ∀ n, Memory.read b.mem n = Memory.read a.mem n
  sp : b.sp = a.sp
  entry : ∀ k : Fin 16, k.val < a.sp.val → b.stack[k] = a.stack[k]
  st : b.st = a.st
  randIn : b.randIn = a.randIn

theorem sameInUse_stable : Hidden.Stable SameInUse where
  read h := h.read
  sp h := h.sp
  entry h := h.entry
  writeBytes h n bs := { h with read := fun a => by rw [Memory.read_writeBytes, Memory.read_writeBytes, h.read] }
  setSt h _ := { h with st := rfl }
  push := fun {a b} h k p hk => {
    h with
    sp := rfl
    entry := fun j hj => by
      by_cases e : k = j
      · subst e
        simp
      · have hkj : k.val ≠ j.val := fun he => e (Fin.ext he)
        have hlt : j.val < k.val + 1 := hj
        simpa [hkj] using h.entry j (by omega) }
  pop h k hk := { h with sp := rfl, entry := fun j hj => h.entry j (Nat.lt_trans hj hk) }

/-- States that differ in stale stack entries alone are equal but for hidden components that are the same in use. -/
theorem onlyChanges_stack_iff (s s' : State) :
    (OnlyChanges [.stack] s s' ∧ ∀ k : Fin 16, k.val < s.sp.val → s'.getStack k = s.getStack k) ↔
      s' = s.withHidden s'.hidden ∧ SameInUse s.hidden s'.hidden := by
  constructor
  · rintro ⟨hc, hk⟩
    have hv : s'.v = s.v := regs_ext (hc .v (by decide))
    have hkeys : s'.keys = s.keys := Vector.ext fun j hj => hc .keys (by decide) ⟨j, hj⟩
    have hi : s'.i = s.i := hc .i (by decide)
    have hpc : s'.pc = s.pc := hc .pc (by decide)
    have hdt : s'.dt = s.dt := hc .dt (by decide)
    have hdisp : s'.disp = s.disp := hc .disp (by decide)
    have hstatus : s'.status = s.status := hc .status (by decide)
    obtain ⟨hfp, hfw, hfi⟩ : Component.Same .faultRecord s s' := hc _ (by decide)
    have hdraws : s'.freeDraws = s.freeDraws := hc .freeDraws (by decide)
    refine ⟨?_, hc .mem (by decide), hc .sp (by decide), hk, hc .st (by decide), hc .randIn (by decide)⟩
    rw [State.withHidden, ← hv, ← hkeys, ← hi, ← hpc, ← hdt, ← hdisp, ← hstatus, ← hfp, ← hfw, ← hfi, ← hdraws]
    rfl
  · rintro ⟨he, hs⟩
    refine ⟨fun c hc => ?_, hs.entry⟩
    rw [he]
    cases c with
    | stack => simp at hc
    | mem => exact hs.read
    | sp => exact hs.sp
    | st => exact hs.st
    | randIn => exact hs.randIn
    | faultRecord => exact ⟨rfl, rfl, rfl⟩
    | v | keys => exact fun _ => rfl
    | i | pc | dt | disp | status | freeDraws => rfl

/-- Settles O46: `return` reads an entry in use only, and `call` writes the first one that is not. -/
theorem staleStackEntriesAreUnobservable : Obligations.StaleStackEntriesAreUnobservable := by
  intro s s' hc hk
  obtain ⟨he, hs⟩ := (onlyChanges_stack_iff s s').1 ⟨hc, hk⟩
  obtain ⟨t, g, ht, ht', hg⟩ := sameInUse_stable.step hs fun x nn _ =>
    execRandomAnd_alike x nn hs.randIn hs { hs with randIn := rfl }
  obtain ⟨hct, hkt⟩ := (onlyChanges_stack_iff t (t.withHidden g)).2 ⟨rfl, hg⟩
  exact ⟨t, _, ht, he ▸ ht', hct, hkt⟩

/-! ### The sound timer (R30) -/

/-- Hidden components that differ in the sound timer alone. -/
def SameButSound (a b : Hidden) : Prop := ∃ x, b = { a with st := x }

theorem sameButSound_stable : Hidden.Stable SameButSound where
  read := by rintro a _ ⟨x, rfl⟩ n; rfl
  sp := by rintro a _ ⟨x, rfl⟩; rfl
  entry := by rintro a _ ⟨x, rfl⟩ k _; rfl
  writeBytes := by rintro a _ ⟨x, rfl⟩ n bs; exact ⟨x, rfl⟩
  setSt := by rintro a _ ⟨x, rfl⟩ y; exact ⟨y, rfl⟩
  push := by rintro a _ ⟨x, rfl⟩ k p _; exact ⟨x, rfl⟩
  pop := by rintro a _ ⟨x, rfl⟩ k _; exact ⟨x, rfl⟩

/-- Settles O34: no instruction reads `ST`, and `set-sound` writes the same value on both sides. -/
theorem noStepReadsTheSoundTimer : Obligations.NoStepReadsTheSoundTimer := by
  intro s b
  have hs : SameButSound s.hidden { s.hidden with st := b } := ⟨b, rfl⟩
  obtain ⟨t, _, ht, ht', x, rfl⟩ := sameButSound_stable.step hs fun x nn _ =>
    execRandomAnd_alike x nn rfl hs ⟨b, rfl⟩
  exact ⟨t, t.setSt x, ht, ht', t.setSt_onlyChanges x⟩

/-! ### The byte on `rand_in` (R37, R38) -/

/-- The second hidden components are the first with `r` on `rand_in`. -/
def WithRandIn (r : Option Byte) (a b : Hidden) : Prop := b = { a with randIn := r }

theorem withRandIn_stable (r : Option Byte) : Hidden.Stable (WithRandIn r) where
  read := by rintro a _ rfl n; rfl
  sp := by rintro a _ rfl; rfl
  entry := by rintro a _ rfl k _; rfl
  writeBytes := by rintro a _ rfl n bs; rfl
  setSt := by rintro a _ rfl x; rfl
  push := by rintro a _ rfl k p _; rfl
  pop := by rintro a _ rfl k _; rfl

/-- Settles O57: putting the port back commutes with a step that does not read it. -/
theorem onlyRandomAndReadsTheRandomByte : Obligations.OnlyRandomAndReadsTheRandomByte := by
  intro s b hno
  rcases s.running_or_halted with hr | hh
  · obtain ⟨t, _, ht, ht', rfl⟩ := (withRandIn_stable s.randIn).step (s := s.setRandIn (some b))
      (g := s.hidden) rfl fun x nn hi => absurd hi (hno x nn)
    have hback : step s = .next (t.setRandIn s.randIn) := ht'
    rw [transact, hostStep_of_running hr, ht, restoreRandIn_next, hback]
  · rw [transact, hostStep_of_halted hh, step_of_halted hh]

/-! ## The writers of a transaction (R23, R32, R38) -/

/-- `wait-key` with no key pressed writes no register (R163). -/
theorem exec_waitKey_keeps_regs {x : Reg} {s t : State} (h : exec (.waitKey x) s = .next t)
    (hk : ∀ k, s.getKey k = false) (r : Reg) : t.getV r = s.getV r := by
  have hnone : s.pressedKeys = [] :=
    List.eq_nil_iff_forall_not_mem.2 fun k hm => by simp [mem_pressedKeys, hk] at hm
  rw [exec, execWaitKey, hnone] at h
  cases h
  rfl

theorem tick_onlyChanges (s : State) : OnlyChanges [.dt, .st] s (tick s) := by
  rcases s.running_or_halted with hr | hh
  · rw [tick_of_running hr]
    exact (s.setDt_onlyChanges _).append (State.setSt_onlyChanges _ _)
  · rw [tick_of_halted hh]
    exact .refl _ s

theorem keysIn_onlyChanges (s : State) (ks : BitVec 16) : OnlyChanges [.keys] s (keysIn ks s) := by
  rw [keysIn]
  split
  · intro c hc
    cases c <;> simp_all [Component.Same, State.getV, State.getStack]
  · exact .refl _ s

/-- Settles O41: an instruction that leaves the block running has taken no fault, so its row of the table is all it writes. -/
theorem onlyTheNamedWritersWrite : Obligations.OnlyTheNamedWritersWrite := by
  refine ⟨fun i s t _ h ht => ?_, fun _ _ _ h hk => exec_waitKey_keeps_regs h hk, tick_onlyChanges,
    keysIn_onlyChanges⟩
  rcases exec_cases i s with ⟨f, info, -, he⟩ | ⟨u, he, hw⟩
  · obtain ⟨u, hu, hf⟩ := raiseFault_takesFault f info s
    cases h.symm.trans (he.trans hu)
    exact absurd hf.halted (State.not_running_and_halted ht)
  · cases h.symm.trans he
    exact ⟨hw.components, hw.registers, hw.bytes⟩

/-- Settles O51: the vector is the list of the bits. -/
theorem keysInWritesTheWholeVector : Obligations.KeysInWritesTheWholeVector := by
  refine fun s ks hr => ⟨fun k => ?_, keysIn_onlyChanges s ks⟩
  rw [keysIn_of_running hr]
  exact keysOfBits_getElem ks k

/-- Settles O56: the byte on the port is used up, and the port is given back as it was. -/
theorem randomAndSamplesTheByteOfItsStep : Obligations.RandomAndSamplesTheByteOfItsStep := by
  intro s x nn b hr hi
  have hstep : transact (.step b) s = .next (s.advancePc.setV x (b &&& nn)) := by
    rw [transact, hostStep_of_fetches hr hi, exec, execRandomAnd,
      State.randomByte_of_some (State.setRandIn_randIn _ (some b))]
    rfl
  exact ⟨_, hstep, State.setV_getV_same _ _ _, rfl, s.advancePc.setV_keepsRegsBut x _,
    ((s.setPc_onlyChanges _).append (s.advancePc.setV_onlyChanges x _)).mono (by decide)⟩

/-! ## What the host reads (R31, R34, R38) -/

theorem Status.codeBits_of_none {st : Status} (h : st.code = none) : st.codeBits = 0 := by
  rw [Status.codeBits, h]

theorem Status.codeBits_of_some {st : Status} {f : Fault} (h : st.code = some f) : st.codeBits = f.code := by
  rw [Status.codeBits, h]

/-- Settles O53: the code of each fault is its number in R200. -/
theorem statusOutShowsTheCodes : Obligations.StatusOutShowsTheCodes := by
  refine fun s => ⟨congrArg RunState.bit, congrArg RunState.bit, Status.codeBits_of_none, ?_, ?_, ?_, ?_, ?_, ?_, ?_,
    rfl, rfl⟩ <;> exact Status.codeBits_of_some

theorem dispOut_length (s : State) : (dispOut s).length = 2048 := by
  rw [dispOut, List.length_map]
  exact List.length_range

theorem dispOut_getElem? (s : State) {e : Nat} (he : e < 2048) :
    (dispOut s)[e]? = some (Bitmap.cell s.disp (e / 64) (e % 64)) := by
  have hget : (List.range (Config.displayW * Config.displayH))[e]? = some e := List.getElem?_range he
  rw [dispOut, List.getElem?_map, hget]
  rfl

/-- Settles O54: `r * 64 + c` has quotient `r` and remainder `c`. -/
theorem dispOutIsRowMajor : Obligations.DispOutIsRowMajor := by
  refine fun s => ⟨dispOut_length s, fun r c ⟨hr, hc⟩ => ?_⟩
  have hr' : r < 32 := hr
  have hc' : c < 64 := hc
  have hrow : (r * 64 + c) / 64 = r := by omega
  have hcol : (r * 64 + c) % 64 = c := by omega
  rw [dispOut_getElem? s (by omega), hrow, hcol]

end Sys2Proof.Machine

/-! SUPPORT. Proofs of the statements of 20_memory.md: a store is seen by the next fetch (R65), and the font table stands
in memory after reset and after a load (R52). -/

namespace Sys2Proof.Machine

/-! ## store-regs over the next instruction word (R65, R184) -/

/-- `store-regs` whose bytes lie in memory writes them and goes on (R184). -/
theorem exec_storeRegs_of_fits {x : Reg} {s : State} (h : s.i.toNat + x.val ≤ 0xFFF) :
    exec (.storeRegs x) s = .next (s.setMem (Memory.writeBytes s.mem s.i.toNat (s.regsUpTo x))) := by
  have hr : inRange s.base (x.val + 1) = true := (inRange_iff _ _).2 (.inr h)
  rw [exec, execStoreRegs, if_pos hr, State.base]

/-- Each of `V[0]` to `V[x]` is read back where it was stored (R184). -/
theorem read_writeBytes_regsUpTo (m : Memory) (base : Nat) (s : State) {x k : Reg} (h : k ≤ x) :
    Memory.read (Memory.writeBytes m base (s.regsUpTo x)) (base + k.val) = s.getV k := by
  have hk : k.val ≤ x.val := h
  have hin : base ≤ base + k.val ∧ base + k.val < base + (s.regsUpTo x).length := by
    rw [s.regsUpTo_length]
    omega
  rw [Memory.read_writeBytes, if_pos hin, Nat.add_sub_cancel_left, s.regsUpTo_getD h]

/-- The advance of the fetch stage, where the sum does not wrap (R74). -/
theorem State.advancePc_pc_toNat {s : State} {p : Nat} (h : s.pc.toNat + 2 = p) (hp : p ≤ 0xFFF) :
    s.advancePc.pc.toNat = p := by
  rw [State.advancePc_pc, BitVec.toNat_add]
  exact (Nat.mod_eq_of_lt (by simp; omega)).trans h

/-- Settles O40: the next fetch reads at `I + k` and `I + k + 1`, where the step has stored `V[k]` and `V[k + 1]`. -/
theorem storedBytesAreFetchedNext : Obligations.StoredBytesAreFetchedNext := by
  intro s x k hr hi hx h hk hpc
  have hstep := (step_of_fetches hr hi).trans (exec_storeRegs_of_fits (s := s.advancePc) hx)
  refine ⟨_, hstep, hr, (fetch_eq_some_iff _ _).2 ?_⟩
  rw [State.setMem_pc, State.advancePc_pc_toNat hpc (by omega)]
  have hread (j : Reg) (hj : j ≤ x) := read_writeBytes_regsUpTo s.mem s.i.toNat s.advancePc hj
  exact ⟨by omega, congrArg₂ wordOfBytes (hread k (Nat.le_of_succ_le hk)).symm (hread ⟨k.val + 1, h⟩ hk).symm⟩

/-! ## The font table (R52, R240) -/

/-- The font's bytes, one at a time, are its table. -/
theorem readBytes_eq_fontBytes {m : Memory}
    (h : ∀ k < 80, Memory.read m (0x50 + k) = Config.fontBytes.getD k 0) :
    Memory.readBytes m 0x50 80 = Config.fontBytes := by
  refine List.ext_getElem (Memory.readBytes_length m 0x50 80) fun k hk hf => ?_
  rw [Memory.readBytes_getElem, h k hf, List.getD_eq_getElem]

/-- Where memory lists no byte, the font reads as its table (R52). -/
theorem unlisted_font {k : Nat} (h : k < 80) : Memory.unlisted (0x50 + k) = Config.fontBytes.getD k 0 := by
  unfold Memory.unlisted Config.fontBase Config.fontSize
  rw [if_pos (by omega), Nat.add_sub_cancel_left]

/-- Settles O55: reset lists no byte, and a load writes the font beside the image. -/
theorem fontTableHoldsTheGlyphs : Obligations.FontTableHoldsTheGlyphs := by
  refine ⟨readBytes_eq_fontBytes fun k hk => unlisted_font hk, fun memInit image rest s himage => ?_⟩
  refine readBytes_eq_fontBytes fun k hk => ?_
  rw [read_load_of_fits himage memInit rest s (by omega), loadedByte_font memInit image hk]

end Sys2Proof.Machine

/-! SUPPORT. Proofs of the statements of 30_encoding.md: the words of a row of the opcode table by their fields, the decoder
by families (R77), and the words it rejects (R80). -/

namespace Sys2Proof.Machine

/-! ## Words by their fields (R75) -/

theorem packNNN_fields (w : Word) : packNNN (opField w) (nnnField w) = w := by
  apply BitVec.eq_of_toNat_eq
  rw [packNNN_toNat, opField_toNat, nnnField_toNat]
  omega

theorem packXNN_fields (w : Word) : packXNN (opField w) (xField w) (nnField w) = w := by
  apply BitVec.eq_of_toNat_eq
  rw [packXNN_toNat, opField_toNat, xField_val, nnField_toNat]
  omega

theorem packXYN_fields (w : Word) : packXYN (opField w) (xField w) (yField w) (nField w) = w := by
  apply BitVec.eq_of_toNat_eq
  rw [packXYN_toNat, opField_toNat, xField_val, yField_val, nField_eq]
  omega

theorem and_not_000F (w : Word) : w &&& ~~~ 0x000F = packXYN (opField w) (xField w) (yField w) 0 := by
  apply BitVec.eq_of_getLsbD_eq
  intro i hi
  simp only [packXYN, opField, xField, yField, regBits, BitVec.getLsbD_append, BitVec.getLsbD_and,
    BitVec.ofFin_toFin, BitVec.getLsbD_extractLsb']
  interval_cases i <;> simp

theorem and_not_00F0 (w : Word) : w &&& ~~~ 0x00F0 = packXYN (opField w) (xField w) 0 (nField w) := by
  apply BitVec.eq_of_getLsbD_eq
  intro i hi
  simp only [packXYN, opField, xField, nField, regBits, BitVec.getLsbD_append, BitVec.getLsbD_and,
    BitVec.ofFin_toFin, BitVec.getLsbD_extractLsb', BitVec.ofNat_toNat, BitVec.setWidth_eq]
  interval_cases i <;> simp

/-! ## The fixed bits of a row (R78) -/

/-- A row fixes the primary nibble, with the low byte or the low nibble where its family has a selector (R77). -/
theorem rowMask_cases (i : Instr) : i.rowMask = 0xF000 ∨ i.rowMask = 0xF0FF ∨ i.rowMask = 0xF00F := by
  cases i <;> simp [Instr.rowMask]

section

variable {w : Word} {i : Instr} (h : w &&& i.rowMask = i.rowMatch)

include h

theorem opField_of_row : (opField w).toNat = i.rowMatch.toNat / 4096 := by
  rcases rowMask_cases i with hm | hm | hm <;> rw [← opField_toNat, ← h, hm]
  · rw [and_F000, opField_packNNN]
  · rw [and_F0FF, opField_packXNN]
  · rw [and_F00F, opField_packXYN]

theorem nnField_of_row (hm : i.rowMask = 0xF0FF) : (nnField w).toNat = i.rowMatch.toNat % 256 := by
  rw [← nnField_toNat, ← h, hm, and_F0FF, nnField_packXNN]

theorem nField_of_row (hm : i.rowMask = 0xF00F) : nField w = i.rowMatch.toNat % 16 := by
  rw [← nField_eq, ← h, hm, and_F00F, nField_packXYN, Nat.mod_eq_of_lt (nField_lt w)]

end

/-! ## The decoder by families (R77) -/

theorem decode_of_family0 {w : Word} (h : opField w = 0x0) : decode w = decodeFamily0 w := by
  simp [decode, h]

theorem decode_of_family8 {w : Word} (h : opField w = 0x8) : decode w = decodeFamily8 w := by
  simp [decode, h]

theorem decode_of_familyE {w : Word} (h : opField w = 0xE) : decode w = decodeFamilyE w := by
  simp [decode, h]

theorem decode_of_familyF {w : Word} (h : opField w = 0xF) : decode w = decodeFamilyF w := by
  simp [decode, h]

/-- A word with the fixed bits of a row decodes to an instruction of the row: `w`'s fields choose the same branches as
those of the row's match. -/
theorem decode_of_row {w : Word} {i : Instr} (h : w &&& i.rowMask = i.rowMatch) :
    ∃ j, decode w = .ok j ∧ j.rowMask = i.rowMask ∧ j.rowMatch = i.rowMatch := by
  have hop := opField_of_row h
  have hnn := nnField_of_row h
  have hn := nField_of_row h
  cases i with
  | clearDisplay | ret => simp [decode, decodeFamily0, hop, hnn rfl, Instr.rowMask, Instr.rowMatch]
  | setReg | orReg | andReg | xorReg | addReg | sub | shiftRight | subReverse | shiftLeft =>
    simp [decode, decodeFamily8, hop, hn rfl, Instr.rowMask, Instr.rowMatch]
  | skipKeyPressed | skipKeyNotPressed =>
    simp [decode, decodeFamilyE, hop, hnn rfl, Instr.rowMask, Instr.rowMatch]
  | getDelay | waitKey | setDelay | setSound | addIndex | fontChar | bcd | storeRegs | loadRegs =>
    simp [decode, decodeFamilyF, hop, hnn rfl, Instr.rowMask, Instr.rowMatch]
  | _ => simp [decode, hop, Instr.rowMask, Instr.rowMatch]

/-- Settles O4: one word decodes to one instruction, so the two rows it has are the row of that instruction. -/
theorem everyRowWordDecodesToItsRow : Obligations.EveryRowWordDecodesToItsRow := by
  refine fun w i hi => ⟨decode_of_row hi, fun j hj => ?_⟩
  obtain ⟨k, hk, hmask, hmatch⟩ := decode_of_row hi
  obtain ⟨l, hl, hmask', hmatch'⟩ := decode_of_row hj
  obtain rfl : k = l := Except.ok.inj (hk.symm.trans hl)
  exact ⟨hmask'.symm.trans hmask, hmatch'.symm.trans hmatch⟩

/-! ## Decoding an encoded instruction (R82) -/

/-- Settles O2: the fields of the encoder's word are the operation's and its operands (`opField_packXYN` and its like). -/
theorem decodeOfEncodeIsTheInstruction : Obligations.DecodeOfEncodeIsTheInstruction := by
  intro i hwf
  cases i with
  | clearDisplay | ret => simp [encode, decode, decodeFamily0]
  | setReg | orReg | andReg | xorReg | addReg | sub | shiftRight | subReverse | shiftLeft =>
    simp [encode, decode, decodeFamily8]
  | skipKeyPressed | skipKeyNotPressed => simp [encode, decode, decodeFamilyE]
  | getDelay | waitKey | setDelay | setSound | addIndex | fontChar | bcd | storeRegs | loadRegs =>
    simp [encode, decode, decodeFamilyF]
  | draw x y n =>
    have hn : n % 16 = n := Nat.mod_eq_of_lt (Nat.lt_succ_of_le (of_decide_eq_true hwf))
    simp [encode, decode, hn]
  | _ => simp [encode, decode]

/-! ## Encoding a decoded word (R79) -/

/-- The instruction is well formed, of the row of the word, and encoded as the word with its unexamined bits cleared. -/
def FollowsRow (w : Word) (i : Instr) : Prop :=
  i.wellFormed = true ∧ w &&& i.rowMask = i.rowMatch ∧ encode i = w &&& ~~~ i.ignoredBits

section

variable {w : Word} {op : BitVec 4} (hop : opField w = op)

include hop

theorem row_of_op : w &&& 0xF000 = packNNN op 0 := by
  rw [and_F000, hop]

theorem row_of_op_nn {nn : Byte} (hnn : nnField w = nn) : w &&& 0xF0FF = packXNN op 0 nn := by
  rw [and_F0FF, hop, hnn]

theorem row_of_op_n {n : Nat} (hn : nField w = n) : w &&& 0xF00F = packXYN op 0 0 n := by
  rw [and_F00F, hop, hn]

theorem packNNN_of_op : packNNN op (nnnField w) = w &&& ~~~ 0x0000 := by
  rw [← hop, packNNN_fields]
  exact BitVec.and_allOnes.symm

theorem packXNN_of_op {nn : Byte} (hnn : nnField w = nn) : packXNN op (xField w) nn = w &&& ~~~ 0x0000 := by
  rw [← hop, ← hnn, packXNN_fields]
  exact BitVec.and_allOnes.symm

theorem packXYN_of_op {n : Nat} (hn : nField w = n) : packXYN op (xField w) (yField w) n = w &&& ~~~ 0x0000 := by
  rw [← hop, ← hn, packXYN_fields]
  exact BitVec.and_allOnes.symm

theorem packXYN_of_op_xy : packXYN op (xField w) (yField w) 0 = w &&& ~~~ 0x000F := by
  rw [and_not_000F, hop]

theorem packXYN_of_op_xn {n : Nat} (hn : nField w = n) : packXYN op (xField w) 0 n = w &&& ~~~ 0x00F0 := by
  rw [and_not_00F0, hop, hn]

end

/-- The decoder compares a field as a number. -/
theorem eq_ofNat_of_toNat_eq {m k : Nat} {b : BitVec m} (h : b.toNat = k) : b = BitVec.ofNat m k :=
  (BitVec.toNat_eq_nat.1 h).2

theorem decodeFamily0_followsRow {w : Word} {i : Instr} (hop : opField w = 0x0) (h : decodeFamily0 w = .ok i) :
    FollowsRow w i := by
  unfold decodeFamily0 at h
  split at h <;> cases h
  all_goals
    next hnn =>
    have hrow := row_of_op_nn hop (eq_ofNat_of_toNat_eq hnn)
    -- the row's mask and the unexamined bits are all 16 bits
    exact ⟨rfl, hrow, hrow.symm⟩

theorem decodeFamily8_followsRow {w : Word} {i : Instr} (hop : opField w = 0x8) (h : decodeFamily8 w = .ok i) :
    FollowsRow w i := by
  unfold decodeFamily8 at h
  split at h <;> cases h
  case h_7 hn | h_9 hn => exact ⟨rfl, row_of_op_n hop hn, packXYN_of_op_xn hop hn⟩
  all_goals next hn => exact ⟨rfl, row_of_op_n hop hn, packXYN_of_op hop hn⟩

theorem decodeFamilyE_followsRow {w : Word} {i : Instr} (hop : opField w = 0xE) (h : decodeFamilyE w = .ok i) :
    FollowsRow w i := by
  unfold decodeFamilyE at h
  split at h <;> cases h
  all_goals
    next hnn =>
    have hnn := eq_ofNat_of_toNat_eq hnn
    exact ⟨rfl, row_of_op_nn hop hnn, packXNN_of_op hop hnn⟩

theorem decodeFamilyF_followsRow {w : Word} {i : Instr} (hop : opField w = 0xF) (h : decodeFamilyF w = .ok i) :
    FollowsRow w i := by
  unfold decodeFamilyF at h
  split at h <;> cases h
  all_goals
    next hnn =>
    have hnn := eq_ofNat_of_toNat_eq hnn
    exact ⟨rfl, row_of_op_nn hop hnn, packXNN_of_op hop hnn⟩

/-- Outside the four families with a selector every word decodes (R77, R78). -/
theorem decode_of_no_selector {w : Word} (h : opField w ∉ ([0x0, 0x8, 0xE, 0xF] : List (BitVec 4))) :
    ∃ i, decode w = .ok i ∧ FollowsRow w i := by
  have hlt := (opField w).isLt
  unfold decode
  split
  case h_1 hop | h_9 hop | h_15 hop | h_16 hop => exact absurd h (by simp [BitVec.toNat_eq, hop])
  case h_2 hop | h_3 hop | h_11 hop | h_12 hop =>
    have hop := eq_ofNat_of_toNat_eq hop
    exact ⟨_, rfl, rfl, row_of_op hop, packNNN_of_op hop⟩
  case h_4 hop | h_5 hop | h_7 hop | h_8 hop | h_13 hop =>
    have hop := eq_ofNat_of_toNat_eq hop
    exact ⟨_, rfl, rfl, row_of_op hop, packXNN_of_op hop rfl⟩
  case h_6 hop | h_10 hop =>
    have hop := eq_ofNat_of_toNat_eq hop
    exact ⟨_, rfl, rfl, row_of_op hop, packXYN_of_op_xy hop⟩
  case h_14 hop =>
    have hop := eq_ofNat_of_toNat_eq hop
    have hn := Nat.le_of_lt_succ (nField_lt w)
    exact ⟨_, rfl, decide_eq_true hn, row_of_op hop, packXYN_of_op hop rfl⟩
  case h_17 => grind -- no 4-bit number is left

theorem opField_cases (w : Word) :
    opField w = 0x0 ∨ opField w = 0x8 ∨ opField w = 0xE ∨ opField w = 0xF ∨
      opField w ∉ ([0x0, 0x8, 0xE, 0xF] : List (BitVec 4)) := by
  simp only [List.mem_cons, List.not_mem_nil, or_false]
  tauto

/-- Settles O3, family by family. -/
theorem decodedWordsFollowTheirRow : Obligations.DecodedWordsFollowTheirRow := by
  intro w i hi
  rcases opField_cases w with h | h | h | h | h
  · exact decodeFamily0_followsRow h (decode_of_family0 h ▸ hi)
  · exact decodeFamily8_followsRow h (decode_of_family8 h ▸ hi)
  · exact decodeFamilyE_followsRow h (decode_of_familyE h ▸ hi)
  · exact decodeFamilyF_followsRow h (decode_of_familyF h ▸ hi)
  · obtain ⟨j, hj, hrow⟩ := decode_of_no_selector h
    cases hj.symm.trans hi
    exact hrow

/-! ## Bits that nothing examines (R79) -/

/-- Settles O5: in each clause the decoder reads only the fields that the two words share. -/
theorem unexaminedBitsDoNotMatter : Obligations.UnexaminedBitsDoNotMatter := by
  refine ⟨fun w w' hop hop' hnn i hi => ?_, fun w w' hop hop' hx hy => ?_, fun w w' hop hn hop' hn' hx => ?_⟩
  · rw [decode_of_family0 hop, decodeFamily0, hnn] at hi
    rw [decode_of_family0 hop', decodeFamily0]
    split at hi <;> simp_all
  · rcases hop with h | h <;> simp [decode, hop', h, hx, hy]
  · rw [decode_of_family8 hop, decode_of_family8 hop', decodeFamily8, decodeFamily8, hn', hx]
    rcases hn with h | h <;> simp [h]

/-! ## Rejected words (R80) -/

theorem decodeFamily0_error_iff (w : Word) :
    (∃ e, decodeFamily0 w = .error e) ↔ nnField w ∉ ([0xE0, 0xEE] : List Byte) := by
  unfold decodeFamily0
  split <;> simp_all [BitVec.toNat_eq]

theorem decodeFamily8_error_iff (w : Word) :
    (∃ e, decodeFamily8 w = .error e) ↔ nField w ∈ [0x8, 0x9, 0xA, 0xB, 0xC, 0xD, 0xF] := by
  have hlt := nField_lt w
  unfold decodeFamily8
  split
  case h_10 =>
    refine iff_of_true ⟨_, rfl⟩ ?_
    simp only [List.mem_cons, List.not_mem_nil, or_false]
    grind
  all_goals simp_all

theorem decodeFamilyE_error_iff (w : Word) :
    (∃ e, decodeFamilyE w = .error e) ↔ nnField w ∉ ([0x9E, 0xA1] : List Byte) := by
  unfold decodeFamilyE
  split <;> simp_all [BitVec.toNat_eq]

theorem decodeFamilyF_error_iff (w : Word) :
    (∃ e, decodeFamilyF w = .error e) ↔
      nnField w ∉ ([0x07, 0x0A, 0x15, 0x18, 0x1E, 0x29, 0x33, 0x55, 0x65] : List Byte) := by
  unfold decodeFamilyF
  split <;> simp_all [BitVec.toNat_eq]

/-- The rejected words, selector by selector (R80). -/
theorem decode_error_iff (w : Word) : (∃ e, decode w = .error e) ↔ IllegalWord w := by
  rcases opField_cases w with h | h | h | h | h
  · simp [decode_of_family0 h, decodeFamily0_error_iff, IllegalWord, h]
  · simp [decode_of_family8 h, decodeFamily8_error_iff, IllegalWord, h]
  · simp [decode_of_familyE h, decodeFamilyE_error_iff, IllegalWord, h]
  · simp [decode_of_familyF h, decodeFamilyF_error_iff, IllegalWord, h]
  · obtain ⟨i, hi, -⟩ := decode_of_no_selector h
    simp_all [IllegalWord]

/-- Settles O6: an illegal word makes the step take DecodeError. -/
theorem illegalWordsHaltWithDecodeError : Obligations.IllegalWordsHaltWithDecodeError := by
  refine ⟨decode_error_iff, fun s w hr hf hw => ?_⟩
  obtain ⟨e, he⟩ := (decode_error_iff w).2 hw
  exact ⟨_, step_of_decode_error hr hf he, rfl, rfl, rfl, rfl, takeFault_onlyChanges _ _ _ _ s⟩

/-- Settles O1, by running the decoder on the seven words. -/
theorem knownWordsDecode : Obligations.KnownWordsDecode := by
  unfold Obligations.KnownWordsDecode
  decide

/-! ## The step (R72 to R74) -/

/-- Settles O7: the advance is a write of `pc`. -/
theorem stepRunsTheDecodedInstruction : Obligations.StepRunsTheDecodedInstruction :=
  fun s _ hr hi => ⟨step_of_fetches hr hi, rfl, s.setPc_onlyChanges _⟩

/-- Settles O8: the fetched word is that of the two bytes at `pc`, and without one the step takes FetchError. -/
theorem fetchReadsBigEndianOrFaults : Obligations.FetchReadsBigEndianOrFaults := by
  refine fun s => ⟨fun h => ⟨_, (fetch_eq_some_iff s _).2 ⟨h, rfl⟩, wordOfBytes_toNat _ _⟩, fun h => ?_⟩
  have hf := (fetch_eq_none_iff s).2 h
  exact ⟨hf, fun hr => ⟨_, step_of_fetch_none hr hf, rfl, rfl, rfl, rfl, takeFault_onlyChanges _ _ _ _ s⟩⟩

/-- Settles O9: the three outcomes of a step are next states. -/
theorem everyStepAnswersANextState : Obligations.EveryStepAnswersANextState :=
  step_eq_next

end Sys2Proof.Machine

/-! SUPPORT. Proofs of the statements of 40_control_flow.md: what `return` and `call` answer in each case of `SP`, and what a
jump and a skip do to `pc`. -/

namespace Sys2Proof.Machine

/-! ## Targets (R76, R102, R108) -/

/-- The zero extension keeps the value. -/
@[simp] theorem zextAddr_toNat (nnn : Addr) : (zextAddr nnn).toNat = nnn.toNat := by
  unfold zextAddr
  bv_omega

@[simp] theorem zextByte_toNat (b : Byte) : (zextByte b).toNat = b.toNat := by
  unfold zextByte
  bv_omega

/-- The target of `jump-offset` is a sum that does not wrap: it is at most 0xFFF + 0xFF. -/
theorem zextAddr_add_zextByte_toNat (nnn : Addr) (b : Byte) :
    (zextAddr nnn + zextByte b).toNat = nnn.toNat + b.toNat := by
  have ha := nnn.isLt
  have hb := b.isLt
  rw [BitVec.toNat_add, zextAddr_toNat, zextByte_toNat]
  omega

/-! ## return and call (R101, R103) -/

/-- With no entry in use, `return` raises StackUnderflow. -/
theorem exec_ret_of_empty {s : State} (h : s.sp.val = 0) : exec .ret s = raiseFault .stackUnderflow 0 s :=
  dif_pos h

/-- With `k + 1` entries in use, `return` pops entry `k`. -/
theorem exec_ret_of_nonempty {s : State} {k : Fin 16} (h : s.sp.val = k.val + 1) :
    exec .ret s = .next ((s.setSp k.castSucc).setPc (s.getStack k)) := by
  have hne : s.sp.val ≠ 0 := by omega
  have htop : s.sp.val - 1 = k.val := by omega
  simp only [exec, execReturn, dif_neg hne, htop]

/-- With 16 entries in use, `call` raises StackOverflow. -/
theorem exec_call_of_full {s : State} (nnn : Addr) (h : s.sp.val = 16) :
    exec (.call nnn) s = raiseFault .stackOverflow (zextAddr nnn) s :=
  dif_neg (by omega)

/-- With `k < 16` entries in use, `call` pushes `pc` as entry `k`. -/
theorem exec_call_of_room {s : State} {k : Fin 16} (nnn : Addr) (h : s.sp.val = k.val) :
    exec (.call nnn) s = .next (((s.setStack k s.pc).setSp k.succ).setPc (zextAddr nnn)) := by
  simp only [exec, execCall, h, dif_pos k.isLt]

/-- Settles O13: `return` moves `SP` to the entry it pops. -/
theorem returnPopsIntoPc : Obligations.ReturnPopsIntoPc := by
  refine ⟨fun w hop hnn => ?_, fun s h => ?_, fun s k h => ?_⟩
  · simp [decode_of_family0 hop, decodeFamily0, hnn]
  · rw [exec_ret_of_empty h]
    exact raiseFault_takesFault _ _ s
  · have hc := (s.setSp_onlyChanges k.castSucc).append (State.setPc_onlyChanges _ (s.getStack k))
    exact ⟨_, exec_ret_of_nonempty h, rfl, rfl, hc.mono (by simp)⟩

/-- Settles O15: the entry `call` writes is the first one not in use. -/
theorem callPushesTheAdvancedPc : Obligations.CallPushesTheAdvancedPc := by
  refine ⟨fun w hop => ?_, fun nnn s h => ?_, fun nnn s k h => ?_⟩
  · simp [decode, hop]
  · rw [exec_call_of_full nnn h]
    exact raiseFault_takesFault _ _ s
  · have hc := ((s.setStack_onlyChanges k s.pc).append (State.setSp_onlyChanges _ k.succ)).append
      (State.setPc_onlyChanges _ (zextAddr nnn))
    exact ⟨_, exec_call_of_room nnn h, s.setStack_getStack_same k s.pc, fun _ => s.setStack_getStack_ne s.pc, rfl,
      zextAddr_toNat nnn, hc.mono (by simp)⟩

/-! ## jump and jump-offset (R102, R108) -/

/-- Above 0xFFE no word can be fetched, so the step raises FetchError at `pc` (R73, R200). -/
theorem step_of_pc_gt {s : State} (hr : s.Running) (h : 0xFFE < s.pc.toNat) :
    ∃ u, step s = .next u ∧ u.faultPc = s.pc ∧ u.status = { state := .halted, code := some .fetchError } :=
  ⟨_, step_of_fetch_none hr ((fetch_eq_none_iff s).2 (Nat.succ_lt_succ h)), rfl, rfl⟩

/-- From `s` the block has jumped to the target `n`, and cannot go on where no word stands at `n`. -/
def JumpsTo (n : Nat) (s t : State) : Prop :=
  t.pc.toNat = n ∧ OnlyChanges [.pc] s t ∧
    (s.Running → 0xFFE < n → ∃ u, step t = .next u ∧ u.faultPc = t.pc ∧
      u.status = { state := .halted, code := some .fetchError })

theorem State.setPc_jumpsTo (s : State) {p : Word} {n : Nat} (h : p.toNat = n) : JumpsTo n s (s.setPc p) := by
  subst h
  exact ⟨rfl, s.setPc_onlyChanges p, fun hr hn => step_of_pc_gt (s := s.setPc p) hr hn⟩

/-- Settles O14: both targets are written to `pc` as they are. -/
theorem jumpsSetPc : Obligations.JumpsSetPc := by
  refine ⟨fun w => ⟨fun hop => ?_, fun hop => ?_⟩, fun nnn s => ⟨?_, ?_⟩⟩
  · simp [decode, hop]
  · simp [decode, hop]
  · exact ⟨_, rfl, s.setPc_jumpsTo (zextAddr_toNat nnn)⟩
  · exact ⟨_, rfl, s.setPc_jumpsTo (zextAddr_add_zextByte_toNat nnn (s.getV 0))⟩

/-! ## Skips (R100, R104 to R107) -/

theorem State.skipIf_beq_pc (s : State) (a b : Byte) :
    (s.skipIf (a == b)).pc = if a = b then s.pc + 2 else s.pc := by
  simp [State.skipIf_pc]

theorem State.skipIf_bne_pc (s : State) (a b : Byte) :
    (s.skipIf (a != b)).pc = if a = b then s.pc else s.pc + 2 := by
  simp [State.skipIf_pc]

/-- Settles O16: each skip is `skipIf` of its test. -/
theorem skipsTestTheirOperands : Obligations.SkipsTestTheirOperands := by
  refine ⟨fun w => ⟨fun hop => ?_, fun hop => ?_, fun hop => ?_, fun hop => ?_⟩, fun x y nn s => ⟨?_, ?_, ?_, ?_⟩⟩
  · simp [decode, hop]
  · simp [decode, hop]
  · simp [decode, hop]
  · simp [decode, hop]
  · exact ⟨_, rfl, s.skipIf_beq_pc _ _, s.skipIf_onlyChanges _⟩
  · exact ⟨_, rfl, s.skipIf_bne_pc _ _, s.skipIf_onlyChanges _⟩
  · exact ⟨_, rfl, s.skipIf_beq_pc _ _, s.skipIf_onlyChanges _⟩
  · exact ⟨_, rfl, s.skipIf_bne_pc _ _, s.skipIf_onlyChanges _⟩

end Sys2Proof.Machine

/-! SUPPORT. Proofs of the statements of 41_alu.md: the flags as numbers, and what an operation that writes a result and a
flag leaves behind (`WritesResultAndFlag`). -/

namespace Sys2Proof.Machine

/-! ## Operations without a flag (R121 to R126) -/

/-- One register write leaves the other registers, `VF` among them, and every other component alone. -/
theorem State.setV_frame (s : State) (x : Reg) (b : Byte) :
    KeepsRegsBut [x] s (s.setV x b) ∧ OnlyChanges [.v] s (s.setV x b) :=
  ⟨s.setV_keepsRegsBut x b, s.setV_onlyChanges x b⟩

/-- Settles O17: each of the three is one register write. -/
theorem immediateMovesWriteOnlyTheirDestination : Obligations.ImmediateMovesWriteOnlyTheirDestination := by
  refine ⟨fun w => ⟨fun hop => ?_, fun hop => ?_, fun hop hn => ?_⟩, fun x y nn s => ⟨?_, ?_, ?_⟩⟩
  · simp [decode, hop]
  · simp [decode, hop]
  · simp [decode_of_family8 hop, decodeFamily8, hn]
  · exact ⟨_, rfl, s.setV_getV_same x _, s.setV_frame x _⟩
  · exact ⟨_, rfl, by rw [s.setV_getV_same, BitVec.toNat_add], s.setV_frame x _⟩
  · exact ⟨_, rfl, s.setV_getV_same x _, s.setV_frame x _⟩

/-- Settles O18: each of the three is one register write, of a byte combined bit by bit. -/
theorem logicIsBitwiseAndKeepsVF : Obligations.LogicIsBitwiseAndKeepsVF := by
  refine ⟨fun w hop => ⟨fun hn => ?_, fun hn => ?_, fun hn => ?_⟩, fun x y s => ⟨?_, ?_, ?_⟩⟩
  · simp [decode_of_family8 hop, decodeFamily8, hn]
  · simp [decode_of_family8 hop, decodeFamily8, hn]
  · simp [decode_of_family8 hop, decodeFamily8, hn]
  · exact ⟨_, rfl, fun k => by rw [s.setV_getV_same, BitVec.getLsbD_or], s.setV_frame x _⟩
  · exact ⟨_, rfl, fun k => by rw [s.setV_getV_same, BitVec.getLsbD_and], s.setV_frame x _⟩
  · exact ⟨_, rfl, fun k => by rw [s.setV_getV_same, BitVec.getLsbD_xor], s.setV_frame x _⟩

/-! ## The flags as numbers (R120, R127 to R131) -/

theorem addCarry_toNat (a b : Byte) : (addCarry a b).toNat = if 255 < a.toNat + b.toNat then 1 else 0 := by
  simp [addCarry]

theorem noBorrow_toNat (a b : Byte) : (noBorrow a b).toNat = if b.toNat < a.toNat then 1 else 0 := by
  simp [noBorrow]

/-- A bit as a flag is the digit of its weight. -/
theorem flagByte_getLsbD_toNat (a : Byte) (k : Nat) : (flagByte (a.getLsbD k)).toNat = a.toNat / 2 ^ k % 2 := by
  rw [flagByte_toNat, BitVec.getLsbD, ← Nat.toNat_testBit]
  cases a.toNat.testBit k <;> rfl

theorem shiftRightOut_toNat (a : Byte) : (shiftRightOut a).toNat = a.toNat % 2 := by
  rw [shiftRightOut, flagByte_getLsbD_toNat, pow_zero, Nat.div_one]

/-- Bit 7 is the highest bit of a byte (D2). -/
theorem shiftLeftOut_toNat (a : Byte) : (shiftLeftOut a).toNat = a.toNat / 128 := by
  have ha := a.isLt
  rw [shiftLeftOut, flagByte_getLsbD_toNat, Config.shlFlagBit]
  omega

/-! ## Operations with a flag (R127 to R131) -/

/-- From `s` to `t` the number `r` is written to `V[x]` and then the number `f` to `VF`, and nothing else has changed. -/
def WritesResultAndFlag (x : Reg) (r f : Nat) (s t : State) : Prop :=
  (x ≠ Reg.vf → (t.getV x).toNat = r) ∧ (t.getV Reg.vf).toNat = f ∧ KeepsRegsBut [x, Reg.vf] s t ∧ OnlyChanges [.v] s t

theorem State.setResultAndFlag_writes (s : State) (x : Reg) {b g : Byte} {r f : Nat} (hb : b.toNat = r)
    (hg : g.toNat = f) : WritesResultAndFlag x r f s (s.setResultAndFlag x b g) := by
  refine ⟨fun hx => ?_, ?_, s.setResultAndFlag_keepsRegsBut x b g, s.setResultAndFlag_onlyChanges x b g⟩
  · rw [s.setResultAndFlag_getV, if_neg hx, if_pos rfl, hb]
  · rw [s.setResultAndFlag_getV, if_pos rfl, hg]

/-- The difference modulo 256, with the subtrahend taken away last. -/
theorem byte_sub_toNat (a b : Byte) : (a - b).toNat = (a.toNat + 256 - b.toNat) % 256 := by
  have hb := b.isLt
  rw [BitVec.toNat_sub]
  omega

theorem byte_shiftRight_one_toNat (a : Byte) : (a >>> 1).toNat = a.toNat / 2 := by
  rw [BitVec.toNat_ushiftRight, Nat.shiftRight_eq_div_pow, pow_one]

theorem byte_shiftLeft_one_toNat (a : Byte) : (a <<< 1).toNat = 2 * a.toNat % 256 := by
  rw [BitVec.toNat_shiftLeft, Nat.shiftLeft_eq, pow_one, Nat.mul_comm]

/-- Settles O19: the flag is the carry of the operands before the write. -/
theorem addRegSetsSumAndCarry : Obligations.AddRegSetsSumAndCarry := by
  refine ⟨fun w hop hn => ?_, fun x y s => ?_⟩
  · simp [decode_of_family8 hop, decodeFamily8, hn]
  · exact ⟨_, rfl, s.setResultAndFlag_writes x (BitVec.toNat_add _ _) (addCarry_toNat _ _)⟩

/-- Settles O20: the two subtractions are one, with the operands exchanged. -/
theorem subtractionsSetDifferenceAndNoBorrow : Obligations.SubtractionsSetDifferenceAndNoBorrow := by
  refine ⟨fun w hop => ⟨fun hn => ?_, fun hn => ?_⟩, fun x y s => ⟨?_, ?_⟩⟩
  · simp [decode_of_family8 hop, decodeFamily8, hn]
  · simp [decode_of_family8 hop, decodeFamily8, hn]
  · exact ⟨_, rfl, s.setResultAndFlag_writes x (byte_sub_toNat _ _) (noBorrow_toNat _ _)⟩
  · exact ⟨_, rfl, s.setResultAndFlag_writes x (byte_sub_toNat _ _) (noBorrow_toNat _ _)⟩

/-- Settles O21: the flag is the lowest or the highest bit of the operand before the write. -/
theorem shiftsReportTheBitShiftedOut : Obligations.ShiftsReportTheBitShiftedOut := by
  refine ⟨fun w hop => ⟨fun hn => ?_, fun hn => ?_⟩, fun x s => ⟨?_, ?_⟩⟩
  · simp [decode_of_family8 hop, decodeFamily8, hn]
  · simp [decode_of_family8 hop, decodeFamily8, hn]
  · exact ⟨_, rfl, s.setResultAndFlag_writes x (byte_shiftRight_one_toNat _) (shiftRightOut_toNat _)⟩
  · exact ⟨_, rfl, s.setResultAndFlag_writes x (byte_shiftLeft_one_toNat _) (shiftLeftOut_toNat _)⟩

/-! ## random-and (R132) -/

/-- A byte that was supplied is masked into `V[x]` and used up. -/
theorem exec_randomAnd_of_some {s : State} {b : Byte} (x : Reg) (nn : Byte) (h : s.randIn = some b) :
    exec (.randomAnd x nn) s = .next (s.useRandIn.setV x (b &&& nn)) := by
  rw [exec, execRandomAnd, State.randomByte_of_some h]

/-- Where none was supplied, a free byte is masked into `V[x]`, and the draw is counted. -/
theorem exec_randomAnd_of_none {s : State} (x : Reg) (nn : Byte) (h : s.randIn = none) :
    exec (.randomAnd x nn) s = .next (s.countDraw.setV x (Config.freeRandByte s.freeDraws &&& nn)) := by
  rw [exec, execRandomAnd, State.randomByte_of_none h]

theorem State.useRandIn_onlyChanges (s : State) : OnlyChanges [.randIn] s s.useRandIn :=
  s.setRandIn_onlyChanges none

/-- Settles O22: the byte is the supplied one or a free one, and taking it leaves every register as it was. -/
theorem randomAndMasksAnyByte : Obligations.RandomAndMasksAnyByte := by
  refine ⟨fun w hop => ?_, fun x nn s => ⟨fun b h => ?_, fun h => ?_, fun r hr => ?_⟩⟩
  · simp [decode, hop]
  · have hc := s.useRandIn_onlyChanges.append (State.setV_onlyChanges _ x (b &&& nn))
    exact ⟨_, exec_randomAnd_of_some x nn h, State.setV_getV_same _ x _, rfl, State.setV_keepsRegsBut _ x _,
      hc.mono (by simp)⟩
  · have hc := s.countDraw_onlyChanges.append (State.setV_onlyChanges _ x (Config.freeRandByte s.freeDraws &&& nn))
    exact ⟨_, _, exec_randomAnd_of_none x nn h, State.setV_getV_same _ x _, rfl, State.setV_keepsRegsBut _ x _,
      hc.mono (by simp)⟩
  · have hsupplied : (supplyRandom r s).randIn = some r := by
      rw [supplyRandom_of_running hr, State.setRandIn_randIn]
    exact ⟨_, exec_randomAnd_of_some x nn hsupplied, State.setV_getV_same _ x _⟩

end Sys2Proof.Machine

/-! SUPPORT. Proofs of the statements of 42_display.md: which cells a drawn sprite toggles and when it collides, for a display
of any dimensions, and then what `draw` makes of that (`State.drawn`). -/

namespace Sys2Proof.Machine

/-! ## The compositor (R140, R142) -/

section

variable {w h : Nat}

/-- A sprite drawn twice toggles every cell an even number of times. -/
theorem composite_twice (hw : 0 < w) (hh : 0 < h) (d : Bitmap w h) (cx cy : Nat) (rows : List Byte) :
    (composite (composite d cx cy rows).1 cx cy rows).1 = d := by
  have hp := spritePixels_onDisplay hw hh cx cy rows
  refine Bitmap.ext_cells fun r _ c _ => ?_
  rw [composite, cell_foldl_plot _ hp, composite, cell_foldl_plot _ hp, Bool.xor_assoc, Bool.xor_self, Bool.xor_false]

/-- Where no cell is toggled twice, the cells of the sprite are toggled and no others. -/
theorem cell_composite (hw : 0 < w) (hh : 0 < h) (d : Bitmap w h) {cx cy : Nat} {rows : List Byte}
    (hn : (spritePixels w h cx cy rows).Nodup) (r c : Nat) :
    Bitmap.cell (composite d cx cy rows).1 r c =
      (Bitmap.cell d r c ^^ decide ((r, c) ∈ spritePixels w h cx cy rows)) := by
  rw [composite, cell_foldl_plot _ (spritePixels_onDisplay hw hh cx cy rows), hn.count]
  by_cases hmem : (r, c) ∈ spritePixels w h cx cy rows <;> simp [hmem]

/-- A cell that is in the list twice is lit at the first or at the second toggle (D31). -/
theorem flag_foldl_plot_of_not_nodup {ps : List (Nat × Nat)} (hp : OnDisplay w h ps) (hn : ¬ps.Nodup)
    (d : Bitmap w h) (b : Bool) : (ps.foldl plot (d, b)).2 = true := by
  induction ps generalizing d b with
  | nil => exact absurd List.nodup_nil hn
  | cons p ps ih =>
    have hps : OnDisplay w h ps := fun q hq => hp q (List.mem_cons_of_mem p hq)
    rw [List.foldl_cons, plot]
    by_cases hnd : ps.Nodup
    · have hmem : p ∈ ps := by
        by_contra hnot
        exact hn (List.nodup_cons.2 ⟨hnot, hnd⟩)
      obtain ⟨hr, hc⟩ := hp p List.mem_cons_self
      have htoggled : Bitmap.cell (Bitmap.toggle d p.1 p.2) p.1 p.2 = !Bitmap.cell d p.1 p.2 := by
        simp [Bitmap.cell_toggle d hr hc]
      rw [flag_foldl_plot ps hps hnd]
      cases hlit : Bitmap.cell d p.1 p.2 with
      | true => simp
      | false =>
        rw [hlit] at htoggled
        rw [List.any_eq_true.2 ⟨p, hmem, htoggled⟩, Bool.or_true]
    · exact ih hps hnd _ _

end

/-- Settles O27: a pixel list with a repetition collides on any display. -/
theorem aCellToggledTwiceCollides : Obligations.ACellToggledTwiceCollides :=
  fun _ _ d cx cy rows hw hh hn => flag_foldl_plot_of_not_nodup (spritePixels_onDisplay hw hh cx cy rows) hn d false

/-! ## draw (R142) -/

/-- The cells that the 1-bits of the sprite of `draw Vx,Vy,N` fall on, in the order of the loop. -/
def State.drawPixels (s : State) (x y : Reg) (n : Nat) : List (Nat × Nat) :=
  spritePixels Config.displayW Config.displayH (s.getV x).toNat (s.getV y).toNat (Memory.readBytes s.mem s.base n)

/-- The display and the collision flag that `draw Vx,Vy,N` composes. -/
def State.composed (s : State) (x y : Reg) (n : Nat) : Bitmap Config.displayW Config.displayH × Bool :=
  composite s.disp (s.getV x).toNat (s.getV y).toNat (Memory.readBytes s.mem s.base n)

/-- The state after a `draw Vx,Vy,N` whose rows lie in memory. -/
def State.drawn (s : State) (x y : Reg) (n : Nat) : State :=
  (s.setDisp (s.composed x y n).1).setV Reg.vf (flagByte (s.composed x y n).2)

/-- The rows of the sprite lie in memory, or there are none. -/
def State.RowsInMemory (s : State) (n : Nat) : Prop := n = 0 ∨ s.i.toNat + n - 1 ≤ 0xFFF

theorem exec_draw_of_rowsInMemory {s : State} {n : Nat} (x y : Reg) (h : s.RowsInMemory n) :
    exec (.draw x y n) s = .next (s.drawn x y n) :=
  if_pos ((inRange_iff _ _).2 h)

theorem exec_draw_of_past_memory {s : State} {n : Nat} (x y : Reg) (hn : 0 < n) (h : 0xFFF < s.i.toNat + n - 1) :
    exec (.draw x y n) s = raiseFault .memoryBoundsError s.i s :=
  if_neg (Bool.eq_false_iff.1 ((inRange_eq_false_iff _ _).2 ⟨hn, h⟩))

theorem State.drawn_disp (s : State) (x y : Reg) (n : Nat) : (s.drawn x y n).disp = (s.composed x y n).1 := rfl

theorem State.drawn_vf (s : State) (x y : Reg) (n : Nat) :
    (s.drawn x y n).getV Reg.vf = flagByte (s.composed x y n).2 :=
  State.setV_getV_same _ _ _

theorem State.drawn_frame (s : State) (x y : Reg) (n : Nat) :
    KeepsRegsBut [Reg.vf] s (s.drawn x y n) ∧ OnlyChanges [.disp, .v] s (s.drawn x y n) :=
  ⟨State.setV_keepsRegsBut (s.setDisp _) Reg.vf _, (s.setDisp_onlyChanges _).append (State.setV_onlyChanges _ _ _)⟩

section

variable {s : State} {x y : Reg} {n : Nat}

theorem mem_drawPixels {r c : Nat} : (r, c) ∈ s.drawPixels x y n ↔ SpriteCovers x y n s r c := by
  simp only [State.drawPixels, mem_spritePixels, Memory.readBytes_length, Memory.readBytes_getElem, Prod.mk.injEq,
    exists_prop]
  rfl

/-- 15 rows of 8 pixels fit on the display, so no cell is toggled twice. -/
theorem drawPixels_nodup (hn : n ≤ 15) : (s.drawPixels x y n).Nodup := by
  refine spritePixels_nodup (by decide) _ _ _ ?_
  rw [Memory.readBytes_length]
  exact hn.trans (by decide)

theorem cell_composed (hn : n ≤ 15) (r c : Nat) :
    Bitmap.cell (s.composed x y n).1 r c = (Bitmap.cell s.disp r c ^^ decide ((r, c) ∈ s.drawPixels x y n)) :=
  cell_composite (by decide) (by decide) s.disp (drawPixels_nodup hn) r c

theorem cell_drawn_of_covers {r c : Nat} (hn : n ≤ 15) (h : SpriteCovers x y n s r c) :
    Bitmap.cell (s.drawn x y n).disp r c = !Bitmap.cell s.disp r c := by
  rw [State.drawn_disp, cell_composed hn, decide_eq_true (mem_drawPixels.2 h), Bool.xor_true]

theorem cell_drawn_of_not_covers {r c : Nat} (hn : n ≤ 15) (h : ¬SpriteCovers x y n s r c) :
    Bitmap.cell (s.drawn x y n).disp r c = Bitmap.cell s.disp r c := by
  rw [State.drawn_disp, cell_composed hn, decide_eq_false (mt mem_drawPixels.1 h), Bool.xor_false]

/-- The sprite collides exactly when it covers a lit cell. -/
theorem composed_collides_iff (hn : n ≤ 15) :
    (s.composed x y n).2 = true ↔ ∃ r c, SpriteCovers x y n s r c ∧ Bitmap.cell s.disp r c = true := by
  have hflag : (s.composed x y n).2 = (s.drawPixels x y n).any fun p => Bitmap.cell s.disp p.1 p.2 :=
    flag_foldl_plot _ (spritePixels_onDisplay (by decide) (by decide) _ _ _) (drawPixels_nodup hn) s.disp false
  simp only [hflag, List.any_eq_true, Prod.exists, mem_drawPixels]

theorem drawn_vf_eq_one_iff (hn : n ≤ 15) :
    (s.drawn x y n).getV Reg.vf = 1 ↔ ∃ r c, SpriteCovers x y n s r c ∧ Bitmap.cell s.disp r c = true := by
  rw [State.drawn_vf, ← composed_collides_iff hn]
  cases (s.composed x y n).2 <;> decide

theorem drawn_vf_eq_zero_iff (hn : n ≤ 15) :
    (s.drawn x y n).getV Reg.vf = 0 ↔ ∀ r c, SpriteCovers x y n s r c → Bitmap.cell s.disp r c = false := by
  have hnone : (s.composed x y n).2 = false ↔ ∀ r c, SpriteCovers x y n s r c → Bitmap.cell s.disp r c = false := by
    rw [← Bool.not_eq_true, composed_collides_iff hn]
    simp
  rw [State.drawn_vf, ← hnone]
  cases (s.composed x y n).2 <;> decide

end

/-- Settles O24: the pixels of the compositor are the cells that the sprite covers, each of them once. -/
theorem drawTogglesExactlyTheSpriteCells : Obligations.DrawTogglesExactlyTheSpriteCells := by
  refine ⟨fun w hop => ?_, fun x y n s hn hr => ?_, fun x y n s hn hr => ?_⟩
  · simp [decode, hop]
  · exact ⟨_, exec_draw_of_rowsInMemory x y hr,
      fun r c _ => ⟨cell_drawn_of_covers hn, cell_drawn_of_not_covers hn⟩,
      (drawn_vf_eq_one_iff hn).2, (drawn_vf_eq_zero_iff hn).2, s.drawn_frame x y n⟩
  · rw [exec_draw_of_past_memory x y hn hr]
    exact raiseFault_takesFault _ _ s

/-! ## Drawing twice (R143) -/

/-- `s'` has the coordinates of `draw Vx,Vy,N` from `s`, and the same sprite at the same `I`. -/
structure SameSprite (x y : Reg) (s s' : State) : Prop where
  index : s'.i = s.i
  column : s'.getV x = s.getV x
  row : s'.getV y = s.getV y
  bytes : ∀ a, Memory.read s'.mem a = Memory.read s.mem a

section

variable {s s' : State} {x y : Reg} {n : Nat} (h : SameSprite x y s s')

include h

theorem SameSprite.composed_eq :
    s'.composed x y n = composite s'.disp (s.getV x).toNat (s.getV y).toNat (Memory.readBytes s.mem s.base n) := by
  rw [State.composed, h.column, h.row, State.base, h.index, Memory.readBytes, funext fun k => h.bytes _]
  rfl

theorem SameSprite.covers_iff {r c : Nat} : SpriteCovers x y n s' r c ↔ SpriteCovers x y n s r c := by
  simp only [SpriteCovers, h.index, h.column, h.row, h.bytes]

theorem SameSprite.rowsInMemory (hr : s.RowsInMemory n) : s'.RowsInMemory n := by
  rwa [State.RowsInMemory, h.index]

theorem SameSprite.drawn_disp (hd : s'.disp = (s.drawn x y n).disp) : (s'.drawn x y n).disp = s.disp := by
  rw [State.drawn_disp, h.composed_eq, hd]
  exact composite_twice (by decide) (by decide) s.disp _ _ _

/-- A cell that the first draw turned on collides in the second. -/
theorem SameSprite.drawn_vf_of_covers (hn : n ≤ 15) (hd : s'.disp = (s.drawn x y n).disp)
    (hvf : (s.drawn x y n).getV Reg.vf = 0) {r c : Nat} (hc : SpriteCovers x y n s r c) :
    (s'.drawn x y n).getV Reg.vf = 1 := by
  have hoff := (drawn_vf_eq_zero_iff hn).1 hvf r c hc
  refine (drawn_vf_eq_one_iff hn).2 ⟨r, c, h.covers_iff.2 hc, ?_⟩
  rw [hd, cell_drawn_of_covers hn hc, hoff, Bool.not_false]

end

/-- Settles O25: the second draw has the pixels of the first, and finds the cells that the first left. -/
theorem drawTwiceRestoresTheDisplay : Obligations.DrawTwiceRestoresTheDisplay := by
  intro x y n s s' hn hr
  refine ⟨_, exec_draw_of_rowsInMemory x y hr, fun hd hi hx hy hm => ?_⟩
  have hs : SameSprite x y s s' := ⟨hi, hx, hy, hm⟩
  refine ⟨_, exec_draw_of_rowsInMemory x y (hs.rowsInMemory hr), hs.drawn_disp hd, ?_, fun hblank => ?_⟩
  · rintro hvf ⟨r, c, hc⟩
    exact hs.drawn_vf_of_covers hn hd hvf hc
  · exact (drawn_vf_eq_zero_iff hn).2 fun r c hc => absurd (hs.covers_iff.1 hc) (hblank r c)

/-! ## clear-display (R141) -/

/-- The state after `clear-display`. -/
def State.cleared (s : State) : State := s.setDisp (Bitmap.clear Config.displayW Config.displayH)

theorem exec_clearDisplay (s : State) : exec .clearDisplay s = .next s.cleared := rfl

@[simp] theorem State.cell_cleared (s : State) (r c : Nat) : Bitmap.cell s.cleared.disp r c = false :=
  Bitmap.cell_clear r c

/-- Settles O23: the display is the only component written, with the blank one. -/
theorem clearDisplayTurnsEveryCellOff : Obligations.ClearDisplayTurnsEveryCellOff := by
  refine ⟨fun w hop hnn => ?_, fun s => ?_⟩
  · simp [decode_of_family0 hop, decodeFamily0, hnn]
  · exact ⟨_, exec_clearDisplay s, fun r c _ => s.cell_cleared r c, s.setDisp_onlyChanges _⟩

theorem State.cleared_sameSprite (s : State) (x y : Reg) : SameSprite x y s s.cleared := ⟨rfl, rfl, rfl, fun _ => rfl⟩

/-- Settles O26: every cell that the draw finds is off, so its toggles are the lit cells. -/
theorem clearThenDrawShowsExactlyTheSprite : Obligations.ClearThenDrawShowsExactlyTheSprite := by
  intro x y n s hn hr
  have hs := s.cleared_sameSprite x y
  refine ⟨_, _, exec_clearDisplay s, exec_draw_of_rowsInMemory x y (hs.rowsInMemory hr), fun r c _ => ?_, ?_⟩
  · rw [← hs.covers_iff]
    by_cases hc : SpriteCovers x y n s.cleared r c
    · simp [cell_drawn_of_covers hn hc, hc]
    · simp [cell_drawn_of_not_covers hn hc, hc]
  · exact (drawn_vf_eq_zero_iff hn).2 fun r c _ => s.cell_cleared r c

end Sys2Proof.Machine

/-! SUPPORT. Proofs of the statements of 43_keys_timers.md: what the key skips do with a key and without one, and which key
`wait-key` stores (`exec_waitKey_of_pressed`). -/

namespace Sys2Proof.Machine

/-! ## The key skips (R160 to R162) -/

section

variable {s : State} {x : Reg}

theorem exec_skipKeyPressed_of_key {k : Fin 16} (h : (s.getV x).toNat = k.val) :
    exec (.skipKeyPressed x) s = .next (s.skipIf (s.getKey k)) := by
  rw [exec, execSkipKeyPressed, Config.keyIndexPolicy, (keyIndex_fault_some _ k).2 h]

theorem exec_skipKeyNotPressed_of_key {k : Fin 16} (h : (s.getV x).toNat = k.val) :
    exec (.skipKeyNotPressed x) s = .next (s.skipIf (!s.getKey k)) := by
  rw [exec, execSkipKeyNotPressed, Config.keyIndexPolicy, (keyIndex_fault_some _ k).2 h]

theorem exec_skipKeyPressed_of_no_key (h : 0xF < (s.getV x).toNat) :
    exec (.skipKeyPressed x) s = raiseFault .keyIndexError (zextByte (s.getV x)) s := by
  rw [exec, execSkipKeyPressed, Config.keyIndexPolicy, (keyIndex_fault_none _).2 h]

theorem exec_skipKeyNotPressed_of_no_key (h : 0xF < (s.getV x).toNat) :
    exec (.skipKeyNotPressed x) s = raiseFault .keyIndexError (zextByte (s.getV x)) s := by
  rw [exec, execSkipKeyNotPressed, Config.keyIndexPolicy, (keyIndex_fault_none _).2 h]

end

theorem State.skipIf_not_pc (s : State) (c : Bool) :
    (s.skipIf (!c)).pc = if c = true then s.pc else s.pc + 2 := by
  cases c <;> rfl

/-- The masking policy takes the low nibble, which leaves an index of a key as it is (R160). -/
theorem keyIndex_mask (v : Byte) : ∃ k, keyIndex .mask v = some k ∧ k.val = v.toNat % 16 := by
  by_cases h : v.toNat < 16
  · exact ⟨_, dif_pos h, (Nat.mod_eq_of_lt h).symm⟩
  · exact ⟨_, dif_neg h, rfl⟩

/-- Settles O28: an index of a key makes each of the two a `skipIf`, and any other index a fault. -/
theorem keySkipsTestTheIndexedKey : Obligations.KeySkipsTestTheIndexedKey := by
  refine ⟨fun w hop => ⟨fun hnn => ?_, fun hnn => ?_⟩, fun x s k hk => ⟨?_, ?_⟩, fun x s h => ⟨?_, ?_⟩, keyIndex_mask⟩
  · simp [decode_of_familyE hop, decodeFamilyE, hnn]
  · simp [decode_of_familyE hop, decodeFamilyE, hnn]
  · exact ⟨_, exec_skipKeyPressed_of_key hk, s.skipIf_pc _, s.skipIf_onlyChanges _⟩
  · exact ⟨_, exec_skipKeyNotPressed_of_key hk, s.skipIf_not_pc _, s.skipIf_onlyChanges _⟩
  · rw [exec_skipKeyPressed_of_no_key h]
    exact raiseFault_takesFault _ _ s
  · rw [exec_skipKeyNotPressed_of_no_key h]
    exact raiseFault_takesFault _ _ s

/-! ## wait-key (R163) -/

@[simp] theorem keyByte_toNat (k : Fin 16) : (keyByte k).toNat = k.val := by
  have hk := k.isLt
  rw [keyByte, BitVec.toNat_ofNat]
  omega

theorem pressedKeys_eq_nil_iff (s : State) : s.pressedKeys = [] ↔ ∀ k, s.getKey k = false := by
  simp [List.eq_nil_iff_forall_not_mem, mem_pressedKeys]

theorem exec_waitKey_of_none_pressed {s : State} (x : Reg) (h : ∀ k, s.getKey k = false) :
    exec (.waitKey x) s = .next (s.setPc (s.pc - 2)) := by
  rw [exec, execWaitKey, (pressedKeys_eq_nil_iff s).2 h]

/-- The key that is stored is a pressed one: the only one, or the open choice among several, which counts a draw. -/
theorem exec_waitKey_of_pressed {s : State} (x : Reg) (h : ∃ k, s.getKey k = true) :
    ∃ k, s.getKey k = true ∧
      (exec (.waitKey x) s = .next (s.setV x (keyByte k)) ∨
        exec (.waitKey x) s = .next (s.countDraw.setV x (keyByte k))) := by
  obtain ⟨j, hj⟩ := h
  rw [exec, execWaitKey]
  split
  · next hnil => exact absurd hj (Bool.eq_false_iff.1 ((pressedKeys_eq_nil_iff s).1 hnil j))
  · next k hone => exact ⟨k, (mem_pressedKeys s k).1 (by simp [hone]), .inl rfl⟩
  · next k ks _ hmany =>
    exact ⟨_, (mem_pressedKeys s _).1 (hmany ▸ chooseKey_mem (Config.freeKeyPick s.freeDraws) k ks), .inr rfl⟩

/-- Settles O29: what is stored names a pressed key whether or not the choice was open. -/
theorem waitKeyStoresAPressedKeyOrRewinds : Obligations.WaitKeyStoresAPressedKeyOrRewinds := by
  refine ⟨fun w hop hnn => ?_, fun x s h => ?_, fun x s h => ?_⟩
  · simp [decode_of_familyF hop, decodeFamilyF, hnn]
  · obtain ⟨k, hk, hexec | hexec⟩ := exec_waitKey_of_pressed x h
    · exact ⟨k, _, hk, hexec, by rw [State.setV_getV_same, keyByte_toNat], s.setV_keepsRegsBut x _,
        (s.setV_onlyChanges x _).mono (by simp)⟩
    · have hc := s.countDraw_onlyChanges.append (State.setV_onlyChanges _ x (keyByte k))
      exact ⟨k, _, hk, hexec, by rw [State.setV_getV_same, keyByte_toNat], State.setV_keepsRegsBut _ x _,
        hc.mono (by simp)⟩
  · exact ⟨_, exec_waitKey_of_none_pressed x h, rfl, s.setPc_onlyChanges _⟩

/-! ## The timers (R164 to R166, R212) -/

theorem toneOut_iff (s : State) : toneOut s = true ↔ s.st.toNat ≠ 0 := by
  simp [toneOut, BitVec.toNat_eq]

/-- Settles O31: each of the three writes one byte that it has read, and the tone is a function of `ST`. -/
theorem timerMovesCopyTheByte : Obligations.TimerMovesCopyTheByte := by
  refine ⟨fun w hop => ⟨fun hnn => ?_, fun hnn => ?_, fun hnn => ?_⟩, fun x s => ⟨?_, ?_, ?_⟩⟩
  · simp [decode_of_familyF hop, decodeFamilyF, hnn]
  · simp [decode_of_familyF hop, decodeFamilyF, hnn]
  · simp [decode_of_familyF hop, decodeFamilyF, hnn]
  · exact ⟨_, rfl, s.setV_getV_same x _, s.setV_frame x _⟩
  · exact ⟨_, rfl, rfl, s.setDt_onlyChanges _⟩
  · exact ⟨_, rfl, rfl, toneOut_iff _, s.setSt_onlyChanges _⟩

end Sys2Proof.Machine

/-! SUPPORT. Proofs of the statements of 44_index_memory.md: the values that `set-index`, `add-index` and `font-char` give `I`,
and what `bcd`, `store-regs` and `load-regs` do with the bytes from `I` on, inside memory and past its end. -/

namespace Sys2Proof.Machine

/-! ## set-index, add-index and font-char (R180 to R182) -/

theorem indexCarry_toNat (i : Word) (a : Byte) :
    (indexCarry i a).toNat = if 0xFFFF < i.toNat + a.toNat then 1 else 0 := by
  simp [indexCarry]

/-- The address of a glyph does not wrap: the font ends at 0x9F (R53). -/
theorem glyphAddr_toNat {g : Nat} (h : g < 16) : (glyphAddr g).toNat = 0x50 + 5 * g := by
  rw [glyphAddr, BitVec.toNat_ofNat, Config.fontBase, Config.glyphBytes]
  omega

/-- Settles O35: `add-index` reads `V[x]` before it writes `VF`, and the low nibble that `font-char` takes names a glyph. -/
theorem indexInstructionsSetI : Obligations.IndexInstructionsSetI := by
  refine ⟨fun w => ⟨fun hop => ?_, fun hop hnn => ?_, fun hop hnn => ?_⟩, fun nnn s => ?_, fun x s => ⟨?_, ?_⟩⟩
  · simp [decode, hop]
  · simp [decode_of_familyF hop, decodeFamilyF, hnn]
  · simp [decode_of_familyF hop, decodeFamilyF, hnn]
  · exact ⟨_, rfl, zextAddr_toNat nnn, s.setI_onlyChanges _⟩
  · have hsum : (s.i + zextByte (s.getV x)).toNat = (s.i.toNat + (s.getV x).toNat) % 65536 := by
      rw [BitVec.toNat_add, zextByte_toNat]
    exact ⟨_, rfl, hsum, by rw [State.setV_getV_same, indexCarry_toNat], State.setV_keepsRegsBut (s.setI _) Reg.vf _,
      (s.setI_onlyChanges _).append (State.setV_onlyChanges _ _ _)⟩
  · exact ⟨_, rfl, glyphAddr_toNat (Nat.mod_lt _ (by decide)), s.setI_onlyChanges _⟩

/-! ## A block of bytes from `I` on (R57, R58) -/

theorem Memory.read_writeBytes_getD (m : Memory) (base : Nat) {bs : List Byte} {k : Nat} (h : k < bs.length) :
    Memory.read (Memory.writeBytes m base bs) (base + k) = bs.getD k 0 := by
  have hin : base ≤ base + k ∧ base + k < base + bs.length := by omega
  rw [Memory.read_writeBytes, if_pos hin, Nat.add_sub_cancel_left]

/-- A block of bytes written from `I` on leaves the bytes outside it and every component but memory alone. -/
theorem State.setMem_writeBytes_frame (s : State) {bs : List Byte} {n : Nat} (h : bs.length = n) :
    KeepsMemoryOutside s.i.toNat n s (s.setMem (Memory.writeBytes s.mem s.i.toNat bs)) ∧
      OnlyChanges [.mem] s (s.setMem (Memory.writeBytes s.mem s.i.toNat bs)) :=
  ⟨fun _ ha => Memory.read_writeBytes_outside _ _ (h ▸ ha), s.setMem_onlyChanges _⟩

/-- The range check of R58 fails where the last of the `n + 1` bytes from `I` on is past memory. -/
theorem State.not_inRange_base {s : State} {n : Nat} (h : 0xFFF < s.i.toNat + n) : ¬inRange s.base (n + 1) = true :=
  Bool.eq_false_iff.1 ((inRange_eq_false_iff _ _).2 ⟨n.succ_pos, h⟩)

/-! ## bcd (R183) -/

theorem exec_bcd_of_fits {x : Reg} {s : State} (h : s.i.toNat + 2 ≤ 0xFFF) :
    exec (.bcd x) s = .next (s.setMem (Memory.writeBytes s.mem s.i.toNat (bcdDigits (s.getV x)))) :=
  if_pos ((inRange_iff _ _).2 (.inr h))

theorem exec_bcd_of_past_memory {x : Reg} {s : State} (h : 0xFFF < s.i.toNat + 2) :
    exec (.bcd x) s = raiseFault .memoryBoundsError s.i s :=
  if_neg (State.not_inRange_base h)

/-- The three bytes that `bcd` stores at `base`, as numbers. -/
theorem read_writeBytes_bcdDigits (m : Memory) (base : Nat) (a : Byte) :
    (Memory.read (Memory.writeBytes m base (bcdDigits a)) base).toNat = a.toNat / 100 ∧
      (Memory.read (Memory.writeBytes m base (bcdDigits a)) (base + 1)).toNat = a.toNat / 10 % 10 ∧
      (Memory.read (Memory.writeBytes m base (bcdDigits a)) (base + 2)).toNat = a.toNat % 10 := by
  have hread {k : Nat} (hk : k < 3) := Memory.read_writeBytes_getD m base (bs := bcdDigits a) hk
  refine ⟨?_, ?_, ?_⟩
  · exact congrArg BitVec.toNat (hread (k := 0) (by decide))
  · exact congrArg BitVec.toNat (hread (k := 1) (by decide))
  · exact congrArg BitVec.toNat (hread (k := 2) (by decide))

/-- Settles O36: the range check alone decides between the three digits and the fault. -/
theorem bcdStoresThreeDigits : Obligations.BcdStoresThreeDigits := by
  refine ⟨fun w hop hnn => ?_, fun x s h => ?_, fun x s h => ?_⟩
  · simp [decode_of_familyF hop, decodeFamilyF, hnn]
  · obtain ⟨hundreds, tens, ones⟩ := read_writeBytes_bcdDigits s.mem s.i.toNat (s.getV x)
    exact ⟨_, exec_bcd_of_fits h, hundreds, tens, ones, s.setMem_writeBytes_frame rfl⟩
  · rw [exec_bcd_of_past_memory h]
    exact raiseFault_takesFault _ _ s

/-! ## store-regs and load-regs (R184 to R186) -/

/-- The state after a `load-regs Vx` whose bytes lie in memory. -/
def State.loaded (s : State) (x : Reg) : State :=
  s.setRegs (writeRegs s.v 0 (Memory.readBytes s.mem s.i.toNat (x.val + 1)))

theorem exec_loadRegs_of_fits {x : Reg} {s : State} (h : s.i.toNat + x.val ≤ 0xFFF) :
    exec (.loadRegs x) s = .next (s.loaded x) :=
  if_pos ((inRange_iff _ _).2 (.inr h))

theorem State.loaded_getV_of_le (s : State) {x k : Reg} (h : k ≤ x) :
    (s.loaded x).getV k = Memory.read s.mem (s.i.toNat + k.val) := by
  have hk : k.val < (Memory.readBytes s.mem s.i.toNat (x.val + 1)).length := by
    rw [Memory.readBytes_length]
    exact Nat.lt_succ_of_le h
  have hin : 0 ≤ k.val ∧ k.val < 0 + (Memory.readBytes s.mem s.i.toNat (x.val + 1)).length := by omega
  calc (s.loaded x).getV k
      = (Memory.readBytes s.mem s.i.toNat (x.val + 1)).getD k.val 0 :=
        (getElem_writeRegs s.v 0 _ k.val k.isLt).trans (if_pos hin)
    _ = Memory.read s.mem (s.i.toNat + k.val) := by
        rw [List.getD_eq_getElem _ _ hk, Memory.readBytes_getElem]

theorem State.loaded_getV_of_lt (s : State) {x k : Reg} (h : x < k) : (s.loaded x).getV k = s.getV k :=
  s.setRegs_writeRegs_getV _ (Memory.readBytes_length ..) (not_le_of_gt h)

theorem exec_storeRegs_of_past_memory {x : Reg} {s : State} (h : 0xFFF < s.i.toNat + x.val) :
    exec (.storeRegs x) s = raiseFault .memoryBoundsError s.i s :=
  if_neg (State.not_inRange_base h)

theorem exec_loadRegs_of_past_memory {x : Reg} {s : State} (h : 0xFFF < s.i.toNat + x.val) :
    exec (.loadRegs x) s = raiseFault .memoryBoundsError s.i s :=
  if_neg (State.not_inRange_base h)

/-- Settles O37: the range check alone decides between the block write and the fault. -/
theorem storeRegsCopiesRegistersToMemory : Obligations.StoreRegsCopiesRegistersToMemory := by
  refine ⟨fun w hop hnn => ?_, fun x s h => ?_, fun x s h => ?_⟩
  · simp [decode_of_familyF hop, decodeFamilyF, hnn]
  · exact ⟨_, exec_storeRegs_of_fits h, fun k hk => read_writeBytes_regsUpTo _ _ s hk,
      s.setMem_writeBytes_frame (s.regsUpTo_length x)⟩
  · rw [exec_storeRegs_of_past_memory h]
    exact raiseFault_takesFault _ _ s

/-- Settles O38: the range check alone decides between the block read and the fault. -/
theorem loadRegsCopiesMemoryToRegisters : Obligations.LoadRegsCopiesMemoryToRegisters := by
  refine ⟨fun w hop hnn => ?_, fun x s h => ?_, fun x s h => ?_⟩
  · simp [decode_of_familyF hop, decodeFamilyF, hnn]
  · exact ⟨_, exec_loadRegs_of_fits h, fun k => s.loaded_getV_of_le, fun k => s.loaded_getV_of_lt,
      s.setRegs_onlyChanges _⟩
  · rw [exec_loadRegs_of_past_memory h]
    exact raiseFault_takesFault _ _ s

/-- Settles O39: each register is loaded from the byte that it was stored to. -/
theorem storeThenLoadRestoresRegisters : Obligations.StoreThenLoadRestoresRegisters := by
  refine fun x s hfit => ⟨_, exec_storeRegs_of_fits hfit, fun s' hi hbytes => ?_⟩
  refine ⟨_, exec_loadRegs_of_fits (hi ▸ hfit), fun k hk => ?_⟩
  rw [s'.loaded_getV_of_le hk, hi, hbytes k hk, State.setMem_mem, read_writeBytes_regsUpTo _ _ s hk]

end Sys2Proof.Machine

/-! SUPPORT. Proofs of the statements of 60_exceptions.md: what a fault of a step leaves and why it was raised
(`step_of_running`, `step_of_faultCause`), what every schedule of transactions keeps (`runSchedule_keeps`), and the timers
beside a step (`exec_withTimers`). -/

namespace Sys2Proof.Machine

/-! ## Schedules (R211) -/

/-- What each transaction of a schedule keeps, the schedule keeps, and it answers a next state. -/
theorem runSchedule_keeps {P : State → Prop} {ts : List Transaction}
    (hP : ∀ tr ∈ ts, ∀ s, P s → ∃ t, transact tr s = .next t ∧ P t) {s : State} (hs : P s) :
    ∃ t, runSchedule ts s = .next t ∧ P t := by
  induction ts generalizing s with
  | nil => exact ⟨s, rfl, hs⟩
  | cons tr ts ih =>
    obtain ⟨u, hu, hPu⟩ := hP tr List.mem_cons_self s hs
    rw [runSchedule, hu]
    exact ih (fun tr' h => hP tr' (List.mem_cons_of_mem tr h)) hPu

/-! ## The invariant along a run (R240 to R242) -/

/-- The invariant says nothing of `rand_in`. -/
theorem State.Inv.setRandIn {s : State} (hs : s.Inv) (b : Option Byte) : (s.setRandIn b).Inv :=
  ⟨hs.memory, hs.status, hs.record, hs.bounded⟩

/-- The invariant says nothing of the timers. -/
theorem State.Inv.tick {s : State} (hs : s.Inv) : (tick s).Inv := by
  rcases s.running_or_halted with hr | hh
  · rw [tick_of_running hr]
    exact ⟨hs.memory, hs.status, hs.record, hs.bounded⟩
  · rwa [tick_of_halted hh]

/-- The invariant says nothing of the keys. -/
theorem State.Inv.keysIn {s : State} (hs : s.Inv) (ks : BitVec 16) : (keysIn ks s).Inv := by
  rw [Machine.keysIn]
  split
  · exact ⟨hs.memory, hs.status, hs.record, hs.bounded⟩
  · exact hs

/-- The host's step is a plain step between two changes of `rand_in`. -/
theorem State.Inv.hostStep {s : State} (hs : s.Inv) (b : Byte) : ∃ t, hostStep b s = .next t ∧ t.Inv := by
  rcases s.running_or_halted with hr | hh
  · obtain ⟨t, ht⟩ := step_eq_next (s.setRandIn (some b))
    rw [hostStep_of_running hr, ht]
    exact ⟨_, rfl, ((hs.setRandIn _).step ht).setRandIn _⟩
  · exact ⟨s, hostStep_of_halted hh b, hs⟩

theorem State.Inv.transact {s : State} (hs : s.Inv) (tr : Transaction) :
    ∃ t, transact tr s = .next t ∧ t.Inv := by
  cases tr with
  | step b => exact hs.hostStep b
  | tick => exact ⟨_, rfl, hs.tick⟩
  | keysIn ks => exact ⟨_, rfl, hs.keysIn ks⟩

theorem State.Inv.runSchedule {s : State} (hs : s.Inv) (ts : List Transaction) :
    ∃ t, runSchedule ts s = .next t ∧ t.Inv :=
  runSchedule_keeps (fun tr _ _ hu => hu.transact tr) hs

theorem State.reset_inv : State.reset.Inv where
  memory := rfl
  status := by simp [Status.Legal, State.reset]
  record := by simp [State.RecordLegal, State.reset]
  bounded := by
    refine ⟨by decide, fun k => ?_⟩
    simp [State.getStack, State.reset]

/-- An admissible run starts in the invariant: after a load that fails, a legal `STATUS` and record stand in a state that is
otherwise one of the block's own. -/
theorem Run.Admissible.start_inv {r : Run} (h : r.Admissible) (s : State) : (r.start s).Inv := by
  have hreset := State.reset_inv
  rw [Run.start, load]
  split
  · next hlong =>
    obtain ⟨hmem, hbounded⟩ := h hlong
    exact ⟨hmem, by simp [Status.Legal], by simp [State.RecordLegal], hbounded⟩
  · exact ⟨Memory.tabulate_wf _, hreset.status, hreset.record, hreset.bounded⟩

/-- Settles O44, transaction by transaction, from any state of the invariant and from the state after the load. -/
theorem everyScheduleKeepsTheInvariant : Obligations.EveryScheduleKeepsTheInvariant :=
  ⟨fun ts _ hs => hs.runSchedule ts, fun r s hr => (hr.start_inv s).runSchedule r.schedule⟩

/-! ## Precise faults (R201) -/

/-- A step of a running block leaves it running, or takes a fault at the instruction, with the word that was fetched. -/
theorem step_of_running {s t : State} (hr : s.Running) (h : step s = .next t) :
    t.Running ∨ ∃ f w info, f ≠ .loadError ∧ t = takeFault f s.pc w info s ∧
      (f ≠ .fetchError → fetch s = some w) := by
  rcases step_cases s with hh | ⟨-, hf⟩ | ⟨-, w, e, hf, hd⟩ | ⟨-, i, hi⟩
  · exact absurd hh (State.not_running_and_halted hr)
  · cases h.symm.trans (step_of_fetch_none hr hf)
    exact .inr ⟨_, _, _, by decide, rfl, fun hne => absurd rfl hne⟩
  · cases h.symm.trans (step_of_decode_error hr hf hd)
    exact .inr ⟨_, w, _, by decide, rfl, fun _ => hf⟩
  · rw [step_of_fetches hr hi] at h
    rcases exec_cases i s.advancePc with ⟨f, info, hne, he⟩ | ⟨u, he, hw⟩
    · obtain ⟨w, hf, -⟩ := hi
      have hword : fetch s = some (wordAt s.mem s.pc.toNat) := hf.trans (congrArg some ((fetch_eq_some_iff s w).1 hf).2)
      cases h.symm.trans (he.trans (raiseFault_advancePc f info s))
      exact .inr ⟨f, _, info, hne, rfl, fun _ => hword⟩
    · cases h.symm.trans he
      exact .inl ((congrArg Status.state hw.keeps_status.1).trans hr)

/-- Settles O10: a step that halts the block has taken a fault. -/
theorem faultsArePrecise : Obligations.FaultsArePrecise := by
  intro s t hr h hh
  rcases step_of_running hr h with hr' | ⟨f, w, info, hne, rfl, hw⟩
  · exact absurd hh (State.not_running_and_halted hr')
  · refine ⟨takeFault_onlyChanges _ _ _ _ s, f, hne, rfl, rfl, fun hf => if_pos hf, fun hf => ?_⟩
    exact (hw hf).trans (congrArg some (if_neg hf).symm)

/-! ## The causes of faults (R200, R203) -/

theorem State.sp_eq_zero_or_succ (s : State) : s.sp.val = 0 ∨ ∃ k : Fin 16, s.sp.val = k.val + 1 := by
  by_cases h : s.sp.val = 0
  · exact .inl h
  · exact .inr ⟨⟨s.sp.val - 1, by omega⟩, (Nat.succ_pred h).symm⟩

theorem State.sp_full_or_room (s : State) : s.sp.val = 16 ∨ ∃ k : Fin 16, s.sp.val = k.val := by
  by_cases h : s.sp.val = 16
  · exact .inl h
  · exact .inr ⟨⟨s.sp.val, by omega⟩, rfl⟩

/-- A fault raised in the execute phase is the step's own. -/
theorem step_of_raises {s : State} {i : Instr} {f : Fault} {info : Word} (hr : s.Running) (hi : s.Fetches i)
    (h : exec i s.advancePc = raiseFault f info s.advancePc) :
    ∃ t, step s = .next t ∧ t.status = { state := .halted, code := some f } :=
  ⟨_, (step_of_fetches hr hi).trans h, rfl⟩

/-- An instruction that accesses bytes past memory raises MemoryBoundsError (R58). -/
theorem exec_of_past_memory {i : Instr} {s : State} (hpos : 0 < i.dataBytes)
    (h : 0xFFF < s.i.toNat + i.dataBytes - 1) : exec i s = raiseFault .memoryBoundsError s.i s := by
  cases i with
  | draw x y n => exact exec_draw_of_past_memory x y hpos h
  | bcd => exact exec_bcd_of_past_memory h
  | storeRegs => exact exec_storeRegs_of_past_memory h
  | loadRegs => exact exec_loadRegs_of_past_memory h
  | _ => exact absurd hpos (Nat.lt_irrefl 0)

/-- Every cause of R200 makes the step take its fault. -/
theorem step_of_faultCause {f : Fault} {s : State} (hr : s.Running) (h : FaultCause f s) :
    ∃ t, step s = .next t ∧ t.status = { state := .halted, code := some f } := by
  cases f with
  | loadError => exact h.elim
  | fetchError => exact ⟨_, step_of_fetch_none hr ((fetch_eq_none_iff s).2 h), rfl⟩
  | decodeError =>
    obtain ⟨w, hf, hw⟩ := h
    obtain ⟨e, he⟩ := (decode_error_iff w).2 hw
    exact ⟨_, step_of_decode_error hr hf he, rfl⟩
  | stackOverflow =>
    obtain ⟨nnn, hi, hsp⟩ := h
    exact step_of_raises hr hi (exec_call_of_full nnn hsp)
  | stackUnderflow => exact step_of_raises hr h.1 (exec_ret_of_empty h.2)
  | memoryBoundsError =>
    obtain ⟨i, hi, hpos, hpast⟩ := h
    exact step_of_raises hr hi (exec_of_past_memory hpos hpast)
  | keyIndexError =>
    obtain ⟨x, hi | hi, hv⟩ := h
    · exact step_of_raises hr hi (exec_skipKeyPressed_of_no_key hv)
    · exact step_of_raises hr hi (exec_skipKeyNotPressed_of_no_key hv)

/-- Where the state has no cause of R200, the instruction leaves `STATUS` alone. -/
theorem exec_status_of_no_cause {i : Instr} {s : State} (hi : s.Fetches i) (hno : ∀ f, ¬FaultCause f s) :
    ∃ t, exec i s.advancePc = .next t ∧ t.status = s.status := by
  have hfit : ¬(0 < i.dataBytes ∧ 0xFFF < s.i.toNat + i.dataBytes - 1) := fun h => hno .memoryBoundsError ⟨i, hi, h⟩
  have hkey (x : Reg) (h : s.Fetches (.skipKeyPressed x) ∨ s.Fetches (.skipKeyNotPressed x)) :
      (s.getV x).toNat < 16 := Nat.lt_of_not_le fun hv => hno .keyIndexError ⟨x, h, hv⟩
  cases i with
  | ret =>
    obtain ⟨k, hk⟩ := s.sp_eq_zero_or_succ.resolve_left fun h0 => hno .stackUnderflow ⟨hi, h0⟩
    exact ⟨_, exec_ret_of_nonempty (s := s.advancePc) hk, rfl⟩
  | call nnn =>
    obtain ⟨k, hk⟩ := s.sp_full_or_room.resolve_left fun h16 => hno .stackOverflow ⟨nnn, hi, h16⟩
    exact ⟨_, exec_call_of_room (s := s.advancePc) nnn hk, rfl⟩
  | skipEqImm | skipNeImm | skipEqReg | skipNeReg => exact ⟨_, rfl, State.skipIf_status _ _⟩
  | skipKeyPressed x =>
    exact ⟨_, exec_skipKeyPressed_of_key (k := ⟨_, hkey x (.inl hi)⟩) rfl, State.skipIf_status _ _⟩
  | skipKeyNotPressed x =>
    exact ⟨_, exec_skipKeyNotPressed_of_key (k := ⟨_, hkey x (.inr hi)⟩) rfl, State.skipIf_status _ _⟩
  | randomAnd x nn => exact ⟨_, rfl, s.advancePc.randomByte_spec.1 .status (by decide)⟩
  | waitKey x =>
    rcases exec_waitKey_cases x s.advancePc with ⟨-, h⟩ | ⟨b, h⟩ | ⟨b, h⟩ <;> exact ⟨_, h, rfl⟩
  | draw x y n =>
    have hrows : s.advancePc.RowsInMemory n := by
      rw [Instr.dataBytes] at hfit
      rw [State.RowsInMemory, State.advancePc_i]
      omega
    exact ⟨_, exec_draw_of_rowsInMemory x y hrows, rfl⟩
  | bcd => exact ⟨_, exec_bcd_of_fits (Nat.le_of_not_lt fun h => hfit ⟨Nat.succ_pos 2, h⟩), rfl⟩
  | storeRegs x => exact ⟨_, exec_storeRegs_of_fits (Nat.le_of_not_lt fun h => hfit ⟨x.val.succ_pos, h⟩), rfl⟩
  | loadRegs x => exact ⟨_, exec_loadRegs_of_fits (Nat.le_of_not_lt fun h => hfit ⟨x.val.succ_pos, h⟩), rfl⟩
  | _ => exact ⟨_, rfl, rfl⟩

/-- Without a cause of R200 the block runs on. -/
theorem step_running_of_no_cause {s : State} (hr : s.Running) (hno : ∀ f, ¬FaultCause f s) :
    ∃ t, step s = .next t ∧ t.Running := by
  rcases step_cases s with hh | ⟨-, hf⟩ | ⟨-, w, e, hf, hd⟩ | ⟨-, i, hi⟩
  · exact absurd hh (State.not_running_and_halted hr)
  · exact absurd ((fetch_eq_none_iff s).1 hf) (hno .fetchError)
  · exact absurd ⟨w, hf, (decode_error_iff w).1 ⟨e, hd⟩⟩ (hno .decodeError)
  · obtain ⟨t, ht, hst⟩ := exec_status_of_no_cause hi hno
    exact ⟨t, (step_of_fetches hr hi).trans ht, (congrArg Status.state hst).trans hr⟩

/-- Settles O11: a step that halts the block has a cause, whose fault is then the one that the step takes. -/
theorem stepFaultsExactlyOnItsCauses : Obligations.StepFaultsExactlyOnItsCauses := by
  refine fun s f hr => ⟨fun ⟨t, ht, hst⟩ => ?_, step_of_faultCause hr⟩
  by_cases hno : ∀ g, ¬FaultCause g s
  · obtain ⟨u, hu, hru⟩ := step_running_of_no_cause hr hno
    cases ht.symm.trans hu
    exact absurd (congrArg Status.state hst) (State.not_running_and_halted hru)
  · obtain ⟨g, hg⟩ : ∃ g, FaultCause g s := not_forall_not.1 hno
    obtain ⟨u, hu, hsu⟩ := step_of_faultCause hr hg
    cases ht.symm.trans hu
    cases hst.symm.trans hsu
    exact hg

/-! ## The halted state (R205) -/

theorem OnlyChanges.halted {cs : List Component} {s t : State} (h : OnlyChanges cs s t) (hcs : .status ∉ cs)
    (hs : s.Halted) : t.Halted :=
  (congrArg Status.state (h .status hcs)).trans hs

/-- A halted block takes a key write at most. -/
theorem transact_of_halted {s : State} (h : s.Halted) (tr : Transaction) :
    ∃ t, transact tr s = .next t ∧ OnlyChanges [.keys] s t := by
  cases tr with
  | step b => exact ⟨s, hostStep_of_halted h b, .refl _ s⟩
  | tick => exact ⟨s, congrArg Host.Outcome.next (tick_of_halted h), .refl _ s⟩
  | keysIn ks => exact ⟨_, rfl, keysIn_onlyChanges s ks⟩

theorem dispOut_of_disp_eq {s t : State} (h : t.disp = s.disp) : dispOut t = dispOut s := by
  simp only [dispOut, h]

theorem statusOut_of_same {s t : State} (hst : Component.Same .status s t) (hrec : Component.Same .faultRecord s t) :
    statusOut t = statusOut s := by
  obtain ⟨hpc, hw, -⟩ := hrec
  have hst : t.status = s.status := hst
  simp only [statusOut, hst, hpc, hw]

/-- Settles O12: whatever the schedule, all but the keys is as it was, `STATUS` with it. -/
theorem haltedStateIsFinal : Obligations.HaltedStateIsFinal := by
  refine fun s hs => ⟨step_of_halted hs, tick_of_halted hs, fun ts => ?_⟩
  have hkeeps (tr : Transaction) (u : State) (hu : OnlyChanges [.keys] s u) :
      ∃ t, transact tr u = .next t ∧ OnlyChanges [.keys] s t :=
    (transact_of_halted (hu.halted (by decide) hs) tr).imp fun _ ⟨ht, hc⟩ => ⟨ht, hu.trans hc⟩
  obtain ⟨t, ht, hc⟩ := runSchedule_keeps (ts := ts) (fun tr _ => hkeeps tr) (.refl [.keys] s)
  exact ⟨t, ht, hc, step_of_halted (hc.halted (by decide) hs), dispOut_of_disp_eq (hc .disp (by decide)),
    statusOut_of_same (hc .status (by decide)) (hc .faultRecord (by decide))⟩

/-! ## Ticks (R210, R211, R248) -/

/-- `s` with other timers. -/
def State.withTimers (s : State) (d e : Byte) : State := (s.setDt d).setSt e

@[simp] theorem State.withTimers_getV (s : State) (d e : Byte) (x : Reg) : (s.withTimers d e).getV x = s.getV x := rfl
@[simp] theorem State.withTimers_base (s : State) (d e : Byte) : (s.withTimers d e).base = s.base := rfl
@[simp] theorem State.withTimers_pressedKeys (s : State) (d e : Byte) :
    (s.withTimers d e).pressedKeys = s.pressedKeys := rfl

theorem tick_eq_withTimers {s : State} (h : s.Running) : tick s = s.withTimers (countDown s.dt) (countDown s.st) :=
  tick_of_running h

theorem tick_running {s : State} (h : s.Running) : (tick s).Running := by
  rw [tick_eq_withTimers h]
  exact h

theorem tick_dt_toNat {s : State} (h : s.Running) : (tick s).dt.toNat = s.dt.toNat - 1 := by
  rw [tick_of_running h]
  exact countDown_toNat s.dt

theorem tick_st_toNat {s : State} (h : s.Running) : (tick s).st.toNat = s.st.toNat - 1 := by
  rw [tick_of_running h]
  exact countDown_toNat s.st

/-- `n` ticks take `n` from both timers, and no timer below 0. -/
theorem runSchedule_ticks (n : Nat) {s : State} (h : s.Running) :
    ∃ t, runSchedule (List.replicate n .tick) s = .next t ∧
      t.dt.toNat = s.dt.toNat - n ∧ t.st.toNat = s.st.toNat - n := by
  induction n generalizing s with
  | zero => exact ⟨s, rfl, rfl, rfl⟩
  | succ n ih =>
    obtain ⟨t, ht, hdt, hst⟩ := ih (tick_running h)
    rw [tick_dt_toNat h] at hdt
    rw [tick_st_toNat h] at hst
    exact ⟨t, ht, by omega, by omega⟩

/-- Settles O32: `n` ticks by induction on `n`. -/
theorem ticksCountBothTimersDownToZero : Obligations.TicksCountBothTimersDownToZero :=
  ⟨fun s hr => ⟨tick_dt_toNat hr, tick_st_toNat hr, tick_onlyChanges s⟩, fun _ => tick_of_halted,
    fun _ n => runSchedule_ticks n, toneOut_iff⟩

/-- The answer with other timers. -/
def Result.withTimers (d e : Byte) : Result → Result
  | .next t => .next (t.withTimers d e)
  | .fault r => .fault r
  | .refused r => .refused r

theorem State.withTimers_skipIf (s : State) (d e : Byte) (c : Bool) :
    (s.withTimers d e).skipIf c = (s.skipIf c).withTimers d e := by
  cases c <;> rfl

/-- An instruction that uses no timer neither reads them nor writes them, even where it raises a fault. -/
theorem exec_withTimers {i : Instr} (hi : ¬i.UsesTimers) (s : State) (d e : Byte) :
    exec i (s.withTimers d e) = Result.withTimers d e (exec i s) := by
  cases i with
  | getDelay | setDelay | setSound => exact absurd trivial hi
  | ret =>
    rcases s.sp_eq_zero_or_succ with h | ⟨k, h⟩
    · rw [exec_ret_of_empty h]
      exact exec_ret_of_empty (s := s.withTimers d e) h
    · rw [exec_ret_of_nonempty h]
      exact exec_ret_of_nonempty (s := s.withTimers d e) h
  | call nnn =>
    rcases s.sp_full_or_room with h | ⟨k, h⟩
    · rw [exec_call_of_full nnn h]
      exact exec_call_of_full (s := s.withTimers d e) nnn h
    · rw [exec_call_of_room nnn h]
      exact exec_call_of_room (s := s.withTimers d e) nnn h
  | draw x y n =>
    rw [exec, exec, execDraw, execDraw, State.withTimers_base]
    split <;> rfl
  | bcd x =>
    rw [exec, exec, execBcd, execBcd, State.withTimers_base]
    split <;> rfl
  | storeRegs x =>
    rw [exec, exec, execStoreRegs, execStoreRegs, State.withTimers_base]
    split <;> rfl
  | loadRegs x =>
    rw [exec, exec, execLoadRegs, execLoadRegs, State.withTimers_base]
    split <;> rfl
  | skipEqImm | skipNeImm | skipEqReg | skipNeReg => exact congrArg Host.Outcome.next (s.withTimers_skipIf d e _)
  | skipKeyPressed x =>
    rw [exec, exec, execSkipKeyPressed, execSkipKeyPressed, State.withTimers_getV]
    split
    · exact congrArg Host.Outcome.next (s.withTimers_skipIf d e _)
    · rfl
  | skipKeyNotPressed x =>
    rw [exec, exec, execSkipKeyNotPressed, execSkipKeyNotPressed, State.withTimers_getV]
    split
    · exact congrArg Host.Outcome.next (s.withTimers_skipIf d e _)
    · rfl
  | waitKey x =>
    rw [exec, exec, execWaitKey, execWaitKey, State.withTimers_pressedKeys]
    split <;> rfl
  | randomAnd x nn =>
    cases hb : s.randIn with
    | some b =>
      rw [exec_randomAnd_of_some x nn hb, exec_randomAnd_of_some (s := s.withTimers d e) x nn hb]
      rfl
    | none =>
      rw [exec_randomAnd_of_none x nn hb, exec_randomAnd_of_none (s := s.withTimers d e) x nn hb]
      rfl
  | _ => rfl

/-- Settles O33: the timers that the tick leaves go through the step as they are. -/
theorem ticksCommuteWithStepsThatUseNoTimer : Obligations.TicksCommuteWithStepsThatUseNoTimer := by
  intro s t i hr hi hno h ht
  rw [step_of_fetches hr hi] at h
  have hany (d e : Byte) : exec i (s.advancePc.withTimers d e) = .next (t.withTimers d e) := by
    rw [exec_withTimers hno, h]
    rfl
  have hkept : t = t.withTimers s.dt s.st := Host.Outcome.next.inj (h.symm.trans (hany s.dt s.st))
  have hdt : t.dt = s.dt := congrArg (·.dt) hkept
  have hst : t.st = s.st := congrArg (·.st) hkept
  rw [tick_eq_withTimers hr, tick_eq_withTimers ht, hdt, hst,
    step_of_fetches (s := s.withTimers (countDown s.dt) (countDown s.st)) hr hi]
  exact hany _ _

/-! ## A new run (R204, R242) -/

/-- The load keeps nothing of the state before it but the model's own count of free draws. -/
theorem Run.start_of_freeDraws_eq (r : Run) {s s' : State} (h : s'.freeDraws = s.freeDraws) :
    r.start s' = r.start s := by
  simp only [Run.start, load, h]

/-- Settles O58: a run is a function of the state after its load. -/
theorem aRunStartsAfresh : Obligations.ARunStartsAfresh := by
  refine fun r s s' => ⟨fun hfits => ?_, fun h => congrArg (runSchedule r.schedule) (r.start_of_freeDraws_eq h)⟩
  rw [Run.start, load_of_fits hfits]
  rfl

end Sys2Proof.Machine

/-! SUPPORT. Proofs of the statements of 70_reset_and_hazards.md: the state that a load leaves, component by component
(`State.reset_getV` and its like, `read_load_image`), and the two runs that never end and never fault: where the instruction
at `pc` changes nothing, a schedule of steps and ticks moves at most the timers (`State.IdlesAt.runSchedule`). -/

namespace Sys2Proof.Machine

/-! ## The state after reset and after a load (R240, R241, R243) -/

theorem State.reset_getV (r : Reg) : State.reset.getV r = 0 := by
  simp [State.getV, State.reset]

theorem State.reset_getStack (k : Fin 16) : State.reset.getStack k = 0 := by
  simp [State.getStack, State.reset]

theorem State.reset_getKey (k : Fin 16) : State.reset.getKey k = false := by
  simp [State.getKey, State.reset]

/-- Settles O43 from the parts of the invariant, which runs that start from reset use too. -/
theorem resetMeetsTheInvariant : Obligations.ResetMeetsTheInvariant :=
  State.reset_inv

/-- A byte of the image stands where the load puts it, and the image ends inside memory. -/
theorem read_load_image {image : List Byte} (h : image.length ≤ 3584) (memInit : Nat → Byte) (rest s : State)
    {k : Nat} (hk : k < image.length) : Memory.read (load memInit image rest s).mem (0x200 + k) = image[k] := by
  rw [read_load_of_fits h memInit rest s (by omega), loadedByte_image memInit image hk]

/-- Settles O47: the load writes memory over the state after reset, and a load that fails writes the fault record. -/
theorem loadLeavesTheResetState : Obligations.LoadLeavesTheResetState := by
  refine ⟨fun memInit image rest s h => ?_,
    fun memInit image rest s h => ⟨_, load_of_too_long h memInit rest s, rfl, rfl, rfl⟩⟩
  have himage (k : Nat) (hk : k < image.length) := read_load_image h memInit rest s hk
  have hread {a : Nat} (ha : a < 4096) := read_load_of_fits h memInit rest s ha
  rw [load_of_fits h memInit rest s] at himage hread ⊢
  refine ⟨_, rfl, State.reset_getV, rfl, rfl, State.reset_getStack, rfl, rfl, rfl, fun r c _ => Bitmap.cell_clear r c,
    State.reset_getKey, rfl, rfl, rfl, fun k hk => ?_, himage, fun a ha hfont hout => ?_⟩
  · rw [hread (by omega), loadedByte_font memInit image hk]
  · rw [hread ha, loadedByte_rest memInit image hfont hout]

/-- Settles O48: a load either leaves the run state of reset or halts the block. -/
theorem anOversizedImageIsALoadError : Obligations.AnOversizedImageIsALoadError :=
  fun memInit _ rest s => ⟨fun h => ⟨_, load_of_fits h memInit rest s, rfl⟩,
    fun h => ⟨_, load_of_too_long h memInit rest s, rfl, step_of_halted rfl⟩⟩

/-- Settles O49: `pc` is where the image begins. -/
theorem executionStartsAtTheFirstImageWord : Obligations.ExecutionStartsAtTheFirstImageWord := by
  intro memInit hi lo image rest s h
  have hfits : (hi :: lo :: image).length ≤ 3584 := Nat.add_le_add_right h 2
  have hhi := read_load_image hfits memInit rest s (k := 0) (Nat.succ_pos _)
  have hlo := read_load_image hfits memInit rest s (k := 1) (Nat.succ_lt_succ (Nat.succ_pos _))
  have hpc : State.reset.pc.toNat + 1 ≤ 0xFFF := by decide
  rw [load_of_fits hfits] at hhi hlo ⊢
  exact ⟨_, rfl, rfl, (fetch_eq_some_iff _ _).2 ⟨hpc, congrArg₂ wordOfBytes hhi.symm hlo.symm⟩⟩

/-- With no image and MEM_INIT = 0, each byte is what memory reads as where it lists none. -/
theorem loadedByte_zero_nil (a : Nat) : loadedByte (fun _ => 0) [] a = Memory.unlisted a :=
  if_neg fun h => absurd h.2 (Nat.not_lt_of_le h.1)

/-- Settles O50: such a load lists no byte. -/
theorem resetIsTheLoadOfAnEmptyImage : Obligations.ResetIsTheLoadOfAnEmptyImage := by
  intro rest
  rw [load_of_fits (Nat.zero_le _), Memory.tabulate_eq_nil loadedByte_zero_nil]
  rfl

/-! ## An instruction that changes nothing (R247, R251) -/

/-- The block runs, and a step of the instruction `i` at `pc` leaves the whole state as it is. -/
structure State.IdlesAt (i : Instr) (s : State) : Prop where
  running : s.Running
  fetches : s.Fetches i
  step_eq : step s = .next s

/-- An execute phase that takes `pc` back undoes the advance of the step. -/
theorem State.idlesAt_of_exec {i : Instr} {s : State} (hr : s.Running) (hi : s.Fetches i)
    (h : exec i s.advancePc = .next (s.advancePc.setPc s.pc)) : s.IdlesAt i :=
  ⟨hr, hi, (step_of_fetches hr hi).trans h⟩

/-- Steps alone never leave such a state. -/
theorem State.IdlesAt.run {i : Instr} {s : State} (hs : s.IdlesAt i) (n : Nat) :
    Host.Core.run Sys2Proof.core n s = .next s := by
  induction n with
  | zero => rfl
  | succ n ih => rw [run_succ_of_step hs.step_eq, ih]

/-- A tick commutes with the step that changes nothing, so the next step changes nothing again. -/
theorem State.IdlesAt.tick {i : Instr} {s : State} (hs : s.IdlesAt i) (ht : ¬i.UsesTimers) : (tick s).IdlesAt i where
  running := tick_running hs.running
  fetches := by
    rw [tick_of_running hs.running]
    exact hs.fetches
  step_eq := ticksCommuteWithStepsThatUseNoTimer s s i hs.running hs.fetches ht hs.step_eq hs.running

/-- The byte on `rand_in` makes no difference to a step that is not `random-and`. -/
theorem State.IdlesAt.transact_step {i : Instr} {s : State} (hs : s.IdlesAt i) (hrand : ∀ x nn, i ≠ .randomAnd x nn)
    (b : Byte) : transact (.step b) s = .next s := by
  have hnot (x : Reg) (nn : Byte) (h : s.Fetches (.randomAnd x nn)) : False := hrand x nn (hs.fetches.unique h)
  rw [onlyRandomAndReadsTheRandomByte s b hnot, hs.step_eq]

/-- A schedule of steps and ticks moves at most the timers, and the block still idles at the instruction. -/
theorem State.IdlesAt.runSchedule {i : Instr} {s : State} (hs : s.IdlesAt i) (ht : ¬i.UsesTimers)
    (hrand : ∀ x nn, i ≠ .randomAnd x nn) {ts : List Transaction} (hts : ∀ t ∈ ts, t.StepOrTick) :
    ∃ t, runSchedule ts s = .next t ∧ OnlyChanges [.dt, .st] s t ∧ t.IdlesAt i := by
  refine runSchedule_keeps (fun tr htr u ⟨hc, hu⟩ => ?_) ⟨.refl _ s, hs⟩
  cases tr with
  | step b => exact ⟨u, hu.transact_step hrand b, hc, hu⟩
  | tick => exact ⟨_, rfl, hc.trans (tick_onlyChanges u), hu.tick ht⟩
  | keysIn ks => exact (hts _ htr).elim

/-! ## wait-key with no key pressed (R163, R247) -/

/-- `wait-key` takes `pc` back until a key is pressed. -/
theorem State.idlesAt_waitKey {s : State} {x : Reg} (hr : s.Running) (hi : s.Fetches (.waitKey x))
    (hk : ∀ k, s.getKey k = false) : s.IdlesAt (.waitKey x) := by
  refine State.idlesAt_of_exec hr hi ?_
  rw [exec_waitKey_of_none_pressed (s := s.advancePc) x hk, State.advancePc_pc, BitVec.add_sub_cancel]

/-- Settles O30: the block idles at the `wait-key`. -/
theorem waitKeyWithoutAKeyRunsForever : Obligations.WaitKeyWithoutAKeyRunsForever := by
  intro s x hr hi hk
  have hs := State.idlesAt_waitKey hr hi hk
  refine ⟨hs.run, fun ts hts => ?_⟩
  obtain ⟨t, hrun, hc, -⟩ := hs.runSchedule id nofun hts
  exact ⟨t, hrun, hc⟩

/-! ## The self-loop end (R102, R251) -/

theorem State.selfLoopEnd_iff (s : State) :
    s.SelfLoopEnd ↔ ∃ nnn, s.Running ∧ s.Fetches (.jump nnn) ∧ zextAddr nnn = s.pc :=
  ⟨fun ⟨hr, w, nnn, hf, hd, hpc⟩ => ⟨nnn, hr, ⟨w, hf, hd⟩, hpc⟩,
    fun ⟨nnn, hr, ⟨w, hf, hd⟩, hpc⟩ => ⟨hr, w, nnn, hf, hd, hpc⟩⟩

/-- A jump to its own address takes `pc` back. -/
theorem State.idlesAt_jump {s : State} {nnn : Addr} (hr : s.Running) (hi : s.Fetches (.jump nnn))
    (hpc : zextAddr nnn = s.pc) : s.IdlesAt (.jump nnn) := by
  refine State.idlesAt_of_exec hr hi ?_
  rw [exec, execJump, hpc]

/-- Settles O52: the block idles at the jump, and `pc` stays at its target. -/
theorem theSelfLoopEndIsStable : Obligations.TheSelfLoopEndIsStable := by
  intro s hend
  obtain ⟨nnn, hr, hi, hpc⟩ := s.selfLoopEnd_iff.1 hend
  have hs := State.idlesAt_jump hr hi hpc
  refine ⟨hs.step_eq, fun ts hts => ?_⟩
  obtain ⟨t, hrun, hc, ht⟩ := hs.runSchedule id nofun hts
  have hstays : t.pc = s.pc := hc .pc (by decide)
  exact ⟨t, hrun, hc, t.selfLoopEnd_iff.2 ⟨nnn, ht.running, ht.fetches, hpc.trans hstays.symm⟩⟩

end Sys2Proof.Machine
